-- ==== Sys2Proof/Word.lean ====
section
/-! DEFINITION. The bit-vector types of the block: bytes, 16-bit data words, identifiers, length codes and
the 32-bit operand words (spec/00_scope.md R8, spec/10_state.md R11, R19). -/

namespace Sys2Proof

/-- A payload byte or one byte of the byte view of a record (R19, R58). -/
abbrev Byte := BitVec 8

/-- A 16-bit data word of a slot or of a shadow entry (R11, R16). -/
abbrev Half := BitVec 16

/-- A 29-bit identifier or acceptance-mask field of a slot (R11). -/
abbrev Ident := BitVec 29

/-- A 4-bit data-length code (R11). -/
abbrev Dlc := BitVec 4

/-- A 32-bit operand word (R19, R57). -/
abbrev Word := BitVec 32

end Sys2Proof
end

