-- ==== Sys2Proof/Config.lean ====
section
/-! DEFINITION. The implementation parameters of spec/00_scope.md R6 and R7, and the free values ("draws") that
stand for everything spec/10_state.md R36 and spec/42_transmit.md R89 call unspecified. -/

namespace Sys2Proof

/-- `IRQ_ORDER` (R7, R129): which of several pending indications may be handled next. -/
inductive IrqOrder where
  | any
  | statusFirstAscending
  deriving DecidableEq, Repr

/-- `RX_MATCH_POLICY` (R7, R106): which slot takes a frame that matches several armed slots. -/
inductive RxMatchPolicy where
  | any
  | lowestIndex
  deriving DecidableEq, Repr

/-- `TX_ORDER` (R7, R107): in which order the controller transmits pending slots. -/
inductive TxOrder where
  | any
  | programmingOrder
  | lowestIndex
  deriving DecidableEq, Repr

/-- The parameters of the block. They are carried in the state as data that no step writes (assumption log 2),
so that a statement about every state is a statement about every parameter choice. -/
structure Params where
  /-- `N`, the number of message slots (R6). -/
  N : Nat
  /-- `N_RX`, the partition boundary (R6). -/
  NRX : Nat
  /-- `QCAP`, the capacity of the software transmit queue (R6). -/
  QCAP : Nat
  /-- `CNT_W`, the width of each fault counter (R7). -/
  CNTW : Nat
  /-- `XFER_CEILING` (R7, R74): `none`, or the number of consecutive busy reads that is a stall. -/
  ceiling : Option Nat
  irqOrder : IrqOrder
  rxMatch : RxMatchPolicy
  txOrder : TxOrder
  deriving DecidableEq, Repr

/-- `N_TX = N - N_RX` (R6). -/
def Params.NTX (p : Params) : Nat := p.N - p.NRX

/-- The constraints of R6: `N >= 1`, `N_RX <= N`, `QCAP` a power of two. -/
def Params.ok (p : Params) : Bool :=
  decide (1 ≤ p.N) && decide (p.NRX ≤ p.N) && decide (2 ^ Nat.log2 p.QCAP = p.QCAP)

/-- The instance `State.reset` is built with: instance D of spec/95_test_vectors.md, with the defaults of R7.
DESIGN CHOICE (assumption log 2): the spec fixes no instance. -/
def Params.document : Params :=
  { N := 32, NRX := 20, QCAP := 8, CNTW := 32, ceiling := none,
    irqOrder := .any, rxMatch := .any, txOrder := .any }

/-- Where a free value is used: one name for each field that R36 or R89 calls unspecified. -/
inductive DrawSite where
  | moId (i : Nat)
  | moMask (i : Nat)
  | moXtd (i : Nat)
  | moDir (i : Nat)
  | moDlc (i : Nat)
  | moWord (i k : Nat)
  | moEob (i : Nat)
  | shId (i : Nat)
  | shExt (i : Nat)
  | shDlc (i : Nat)
  | shWord (i k : Nat)
  | ringId (k : Nat)
  | ringByte (k j : Nat)
  | ringLen (k : Nat)
  | ringExt (k : Nat)
  | clkdiv
  | bt
  | xferTarget
  | xferKind
  | xferId
  | xferMask
  | xferXtd
  | xferDlc
  | xferWord (k : Nat)
  | txMask (i : Nat)
  deriving DecidableEq, Repr

/-- The free value at a site, for the `n`-th draw of a run (assumption log 4): it has no body, so nothing can be
proved about it. -/
opaque Config.draw (w : Nat) (site : DrawSite) (n : Nat) : BitVec w

/-- The free value of a register that holds an opaque word of no stated width (R27). -/
opaque Config.drawNat (site : DrawSite) (n : Nat) : Nat

/-- A free one-bit value. -/
def Config.drawBit (site : DrawSite) (n : Nat) : Bool := (Config.draw 1 site n).getLsbD 0

end Sys2Proof
end

