-- ==== Sys2Proof/Syntax.lean ====
section
/-! DEFINITION. The operation set of spec/30_encoding.md R55 as one inductive, one constructor for each row of
spec/opcode_table.json, and the operand values its rows take (R19, R57, R63, R64). -/

namespace Sys2Proof

/-- The eight payload bytes of a frame, always all present (R19). -/
structure Payload where
  b0 : Byte
  b1 : Byte
  b2 : Byte
  b3 : Byte
  b4 : Byte
  b5 : Byte
  b6 : Byte
  b7 : Byte
  deriving DecidableEq, Repr

/-- The four 16-bit data words of a slot, a shadow entry or a transfer image (R11, R39). -/
structure DataWords where
  w0 : Half
  w1 : Half
  w2 : Half
  w3 : Half
  deriving DecidableEq, Repr

/-- A `Frame` value (R19). It may be ill-formed: `SEND` is what checks it (R69). -/
structure Frame where
  id : Word
  payload : Payload
  len : Byte
  ext : Bool
  deriving DecidableEq, Repr

/-- `BaudConfig`, any record of two opaque words (R7, R27). No rule reads a bit of either, so each is a natural number:
a word of whatever width the block is built with (DESIGN CHOICE, assumption log 6). -/
structure Baud where
  clkdiv : Nat
  bt : Nat
  deriving DecidableEq, Repr

/-- The operand ports of the host command port (R57): `OPND_BAUD`, `OPND_MASK`, `OPND_VALUE`, `OPND_EXT` and
`OPND_FRAME`. An operation uses the ports it has and ignores the others. -/
structure OperandPorts where
  baud : Baud
  mask : Word
  value : Word
  ext : Bool
  frame : Frame
  deriving DecidableEq, Repr

/-- `XFER.kind` (R28, R64). -/
inductive XferKind where
  | filter
  | txframe
  deriving DecidableEq, Repr

/-- A transfer image (R64): its kind, and the fields that the kind carries. The fields whose value the kind fixes
(`dir`, `txrqst`, `eob`, `armed`) are not repeated. -/
inductive XferImage where
  | filter (id mask : Ident) (xtd : Bool)
  | txframe (id : Ident) (xtd : Bool) (dlc : Dlc) (w : DataWords)
  deriving DecidableEq, Repr

/-- `XFER.kind` is the image's constructor. -/
def XferImage.kind : XferImage → XferKind
  | .filter _ _ _ => .filter
  | .txframe _ _ _ _ => .txframe

/-- The 24 operations of R55. The host and internal operations are the foreground's, `irqRx` and `irqStatus` the
interrupt context's, the `env` operations the controller's. -/
inductive Instr where
  | init (baud : Baud)
  | registerFilter (mask value : Word) (extended : Bool)
  | send (frame : Frame)
  | poll
  | tryReceive
  | rdCounters
  | reserveReceiveSlot (mask value : Word) (extended : Bool)
  | xferWait (target : Nat) (image : XferImage)
  | precheckHalt
  | trySend (frame : Frame)
  | enqueue (frame : Frame)
  | drainOne
  | irqRx (slot : Nat)
  | irqStatus
  | envXferDone
  | envRx (slot : Nat) (frame : Frame)
  | envTxDone (slot : Nat)
  | envEwarnOn
  | envEwarnOff
  | envBusoff (lost : List Nat) (ewarn : Bool)
  | envSilentHalt (lost : List Nat) (ewarn : Bool)
  | envRecovered
  | envErrSet (indicate : Bool)
  | reset
  deriving DecidableEq, Repr

end Sys2Proof
end

