-- ==== Sys2Proof/Machine/Operands.lean ====
section
/-! DEFINITION. Operand forms: the payload packing of spec/20_memory.md R39 and R40, well-formed frames (R19),
filter operands (R59), and the assembly of operands into stored fields and back (spec/30_encoding.md R67). -/

namespace Sys2Proof.Machine

/-- One data word from two payload bytes, the formula of R39. -/
def packWord (even odd : Byte) : Half := (odd.setWidth 16 <<< 8) ||| even.setWidth 16

/-- `w[7:0]`, the payload byte at the even position (R40). -/
def evenByte (w : Half) : Byte := w.extractLsb' 0 8

/-- `w[15:8]`, the payload byte at the odd position (R40). -/
def oddByte (w : Half) : Byte := w.extractLsb' 8 8

/-- `pack(payload)` (R39). -/
def pack (p : Payload) : DataWords :=
  { w0 := packWord p.b0 p.b1, w1 := packWord p.b2 p.b3,
    w2 := packWord p.b4 p.b5, w3 := packWord p.b6 p.b7 }

/-- `unpack(w[0..3])` (R40). -/
def unpack (w : DataWords) : Payload :=
  { b0 := evenByte w.w0, b1 := oddByte w.w0, b2 := evenByte w.w1, b3 := oddByte w.w1,
    b4 := evenByte w.w2, b5 := oddByte w.w2, b6 := evenByte w.w3, b7 := oddByte w.w3 }

/-- `W` of R19 and R59: 29 for an extended identifier, 11 for a standard one. -/
def identWidth (extended : Bool) : Nat := if extended then 29 else 11

/-- No bit of `v` at or above the identifier width is set (R19, R59). -/
def fitsIdent (v : Word) (extended : Bool) : Bool := decide (v.toNat < 2 ^ identWidth extended)

/-- The length half of R19: `len <= 8`. -/
def lengthOk (f : Frame) : Bool := decide (f.len.toNat ≤ 8)

/-- A well-formed frame (R19). -/
def frameOk (f : Frame) : Bool := lengthOk f && fitsIdent f.id f.ext

/-- The `FILTER` image of R64, R67 (b) and R75: bits 31:29 of the mask are discarded. -/
def filterImage (mask value : Word) (extended : Bool) : XferImage :=
  .filter (value.setWidth 29) (mask.setWidth 29) extended

/-- The `TXFRAME` image of R64, R67 (a) and R89. -/
def txImage (f : Frame) : XferImage :=
  .txframe (f.id.setWidth 29) f.ext (f.len.setWidth 4) (pack f.payload)

/-- A frame assembled from the raw fields of a slot or of a shadow entry (R67 (c), R83, R107). -/
def frameOfFields (id : Ident) (ext : Bool) (dlc : Dlc) (w : DataWords) : Frame :=
  { id := id.setWidth 32, payload := unpack w, len := dlc.setWidth 8, ext := ext }

/-- An image that some well-formed operand gives (R64, R67): a standard identifier within 11 bits, and a length
code of at most 8. -/
def imageOk : XferImage → Bool
  | .filter id _ xtd => fitsIdent (id.setWidth 32) xtd
  | .txframe id xtd dlc _ => fitsIdent (id.setWidth 32) xtd && decide (dlc.toNat ≤ 8)

end Sys2Proof.Machine
end

