-- ==== Sys2Proof/WellFormed.lean ====
section
/-! DEFINITION. Which terms of `Instr` are instructions of a block with the given parameters: slot operands inside
the region the operation names (spec/30_encoding.md R62, R63, spec/45_controller_env.md R106 to R110), operand
values that an internal operation's caller has checked (R69, R75, R89), and index values and opaque words that the
serial form of `Decode.lean` can hold (assumption log 5). The operands of the host operations are not restricted: R69 refuses the bad ones. -/

namespace Sys2Proof

/-- `i` names a receive slot (R12). -/
def Params.isRx (p : Params) (i : Nat) : Bool := decide (i < p.NRX)

/-- `i` names a transmit slot (R12). -/
def Params.isTx (p : Params) (i : Nat) : Bool := decide (p.NRX ≤ i) && decide (i < p.N)

/-- Strictly rising: the one way this model writes a set of slots. -/
def strictlyRising : List Nat → Bool
  | [] => true
  | [_] => true
  | a :: b :: rest => decide (a < b) && strictlyRising (b :: rest)

/-- The slot set of a bus-off or a silent halt (R109): transmit slots, each once. -/
def lostOk (p : Params) (lost : List Nat) : Bool :=
  strictlyRising lost && lost.all (fun i => p.isTx i && decide (i < 65536)) && decide (lost.length < 65536)

/-- The target of a transfer lies in the region its kind programs (R12, R64). -/
def Params.targetOk (p : Params) (target : Nat) : XferImage → Bool
  | .filter _ _ _ => p.isRx target
  | .txframe _ _ _ _ => p.isTx target

/-- The check of well-formed instructions. -/
def Instr.wellFormed (p : Params) : Instr → Bool
  | .init b => decide (b.clkdiv < 2 ^ 32) && decide (b.bt < 2 ^ 32)
  | .registerFilter _ _ _ => true
  | .send _ => true
  | .poll => true
  | .tryReceive => true
  | .rdCounters => true
  | .reserveReceiveSlot _ value extended => Machine.fitsIdent value extended
  | .xferWait target image => p.targetOk target image && Machine.imageOk image && decide (target < 65536)
  | .precheckHalt => true
  | .trySend f => Machine.frameOk f
  | .enqueue f => Machine.frameOk f
  | .drainOne => true
  | .irqRx i => p.isRx i && decide (i < 32768)
  | .irqStatus => true
  | .envXferDone => true
  | .envRx i f => p.isRx i && Machine.frameOk f && decide (i < 65536)
  | .envTxDone i => p.isTx i && decide (i < 65536)
  | .envEwarnOn => true
  | .envEwarnOff => true
  | .envBusoff lost _ => lostOk p lost
  | .envSilentHalt lost _ => lostOk p lost
  | .envRecovered => true
  | .envErrSet _ => true
  | .reset => true

end Sys2Proof
end

