-- ==== Sys2Proof/Decode.lean ====
section
/-! DEFINITION. The decoder, total on any bytes and rejecting by name, and after it the encoder. The operation
codes are those of spec/30_encoding.md R56, the frame record R58, the transfer image R64, the indication code R62
and the result-free operand ports R57. The spec gives a command its code and its ports, and no serial order for
them: an operation is written here as its code byte and then its operands in the order of
spec/opcode_table.json, each in whole bytes, least significant byte first (DESIGN CHOICE, assumption log 5). The block
reads no such bytes: a step takes a command's ports or a step's label (`Machine/Fetch.lean`), and the serial form is
how a word of the opcode table names one. -/

namespace Sys2Proof

/-- Why a byte sequence is no operation. -/
inductive DecodeError where
  /-- there is no code byte -/
  | noCode
  /-- the code is none of R56's (R68) -/
  | illegalCode (code : Byte)
  /-- an operand's bytes are missing -/
  | truncated
  /-- a transfer image with a reserved bit set, or with fields that its kind does not carry (R64) -/
  | badImage
  /-- an indication code whose bit 15 selects the status indication, given for IRQ_RX (R62) -/
  | badIndication
  deriving DecidableEq, Repr

/-- A value read from the front of a byte sequence, with the bytes that follow it. -/
abbrev Reads (α : Type) := Except DecodeError (α × List Byte)

/-- Read on: give what was read, and the bytes after it, to the next reader. -/
def thenRead {α β : Type} (r : Reads α) (k : α → List Byte → Reads β) : Reads β :=
  match r with
  | .ok (a, bs) => k a bs
  | .error e => .error e

/-- The number whose least significant byte comes first. -/
def leValue : List Byte → Nat
  | [] => 0
  | b :: rest => b.toNat + 256 * leValue rest

/-- The `k` low bytes of a number, least significant first. -/
def leBytes : Nat → Nat → List Byte
  | 0, _ => []
  | k + 1, v => BitVec.ofNat 8 v :: leBytes k (v / 256)

/-! ## Operand readers -/

/-- A one-bit operand: bit 0 of its byte, the other bits ignored as R58 ignores them in a frame record. -/
def readFlag : List Byte → Reads Bool
  | b :: rest => .ok (b.getLsbD 0, rest)
  | [] => .error .truncated

def readHalf : List Byte → Reads Half
  | b0 :: b1 :: rest => .ok (b1 ++ b0, rest)
  | _ => .error .truncated

/-- A slot index, or the number of slots in a set, two bytes. R62 gives an indication code 16 bits; for the arguments of
R63 and the target of R64 the spec gives no width and R6 no bound, so the two bytes are this serial form's
(DESIGN CHOICE, assumption log 5). A label itself, `Input.label`, names any slot. -/
def readSlot (bs : List Byte) : Reads Nat :=
  thenRead (readHalf bs) fun h rest =>
  .ok (h.toNat, rest)

def readWord : List Byte → Reads Word
  | b0 :: b1 :: b2 :: b3 :: rest => .ok (b3 ++ b2 ++ b1 ++ b0, rest)
  | _ => .error .truncated

def readPayload : List Byte → Reads Payload
  | b0 :: b1 :: b2 :: b3 :: b4 :: b5 :: b6 :: b7 :: rest => .ok (⟨b0, b1, b2, b3, b4, b5, b6, b7⟩, rest)
  | _ => .error .truncated

/-- The last two bytes of a frame record: `len`, and the byte whose bit 0 is `ext` and whose bits 7 to 1 are
ignored on input (R58). -/
def readLenExt : List Byte → Reads (Byte × Bool)
  | len :: tag :: rest => .ok ((len, tag.getLsbD 0), rest)
  | _ => .error .truncated

/-- The 14-byte frame record of R58. -/
def readFrame (bs : List Byte) : Reads Frame :=
  thenRead (readWord bs) fun id bs =>
  thenRead (readPayload bs) fun payload bs =>
  thenRead (readLenExt bs) fun tail bs =>
  .ok ({ id := id, payload := payload, len := tail.1, ext := tail.2 }, bs)

def readDataWords (bs : List Byte) : Reads DataWords :=
  thenRead (readHalf bs) fun w0 bs =>
  thenRead (readHalf bs) fun w1 bs =>
  thenRead (readHalf bs) fun w2 bs =>
  thenRead (readHalf bs) fun w3 bs =>
  .ok ({ w0 := w0, w1 := w1, w2 := w2, w3 := w3 }, bs)

/-- The image that the four parts of the 144-bit packing of R64 stand for: bits 31:0 (`id`, `xtd`, `dir`, `kind`),
bits 63:32 (`mask`), bits 79:64 (`dlc`, `txrqst`, `eob`) and the data words. -/
def imageOfParts (head maskWord : Word) (ctl : Half) (w : DataWords) : Option XferImage :=
  if head.extractLsb' 30 2 = 0#2 then
    if maskWord.extractLsb' 29 3 = 0#3 ∧ ctl = 0#16 ∧ w = ⟨0#16, 0#16, 0#16, 0#16⟩ then
      some (.filter (head.extractLsb' 0 29) (maskWord.extractLsb' 0 29) (head.getLsbD 29))
    else none
  else if head.extractLsb' 30 2 = 3#2 then
    if maskWord = 0#32 ∧ ctl.extractLsb' 4 12 = 3#12 then
      some (.txframe (head.extractLsb' 0 29) (head.getLsbD 29) (ctl.extractLsb' 0 4) w)
    else none
  else none

/-- The 18-byte transfer image (R64). -/
def readImage (bs : List Byte) : Reads XferImage :=
  thenRead (readWord bs) fun head bs =>
  thenRead (readWord bs) fun maskWord bs =>
  thenRead (readHalf bs) fun ctl bs =>
  thenRead (readDataWords bs) fun w bs =>
  match imageOfParts head maskWord ctl w with
  | some image => .ok (image, bs)
  | none => .error .badImage

/-- `n` slot indices. -/
def readSlots : Nat → List Byte → Reads (List Nat)
  | 0, bs => .ok ([], bs)
  | n + 1, bs =>
    thenRead (readSlot bs) fun i bs =>
    thenRead (readSlots n bs) fun more bs =>
    .ok (i :: more, bs)

/-- The operands `(S, e)` of a bus-off or a silent halt (R63): `e`, the number of slots in `S`, and the slots. -/
def readLost (bs : List Byte) : Reads (List Nat × Bool) :=
  thenRead (readFlag bs) fun e bs =>
  thenRead (readSlot bs) fun n bs =>
  thenRead (readSlots n bs) fun lost bs =>
  .ok ((lost, e), bs)

/-- The operands of REGISTER_FILTER and RESERVE_RECEIVE_SLOT (R57, R59). -/
def readFilter (bs : List Byte) : Reads (Word × Word × Bool) :=
  thenRead (readWord bs) fun mask bs =>
  thenRead (readWord bs) fun value bs =>
  thenRead (readFlag bs) fun extended bs =>
  .ok ((mask, value, extended), bs)

/-- The operands of INIT (R57): two opaque words, four bytes each in this serial form (DESIGN CHOICE, assumption
log 5). -/
def readBaud (bs : List Byte) : Reads Baud :=
  thenRead (readWord bs) fun clkdiv bs =>
  thenRead (readWord bs) fun bt bs =>
  .ok ({ clkdiv := clkdiv.toNat, bt := bt.toNat }, bs)

/-- The operand of IRQ_RX: an indication code with bit 15 clear (R62). -/
def readRxIndication (bs : List Byte) : Reads Nat :=
  thenRead (readHalf bs) fun ind bs =>
  if ind.getLsbD 15 then .error .badIndication else .ok ((ind.extractLsb' 0 15).toNat, bs)

/-! ## The decoder -/

/-- The operation whose code byte is `code` and whose operands stand at the front of `bs` (R56, R57). -/
def decodeOperands (code : Byte) (bs : List Byte) : Reads Instr :=
  match code.toNat with
  | 0x01 => thenRead (readBaud bs) fun b bs => .ok (.init b, bs)
  | 0x02 => thenRead (readFilter bs) fun o bs => .ok (.registerFilter o.1 o.2.1 o.2.2, bs)
  | 0x03 => thenRead (readFrame bs) fun f bs => .ok (.send f, bs)
  | 0x04 => .ok (.poll, bs)
  | 0x05 => .ok (.tryReceive, bs)
  | 0x06 => .ok (.rdCounters, bs)
  | 0x11 => thenRead (readFilter bs) fun o bs => .ok (.reserveReceiveSlot o.1 o.2.1 o.2.2, bs)
  | 0x12 =>
    thenRead (readSlot bs) fun target bs =>
    thenRead (readImage bs) fun image bs =>
    .ok (.xferWait target image, bs)
  | 0x13 => .ok (.precheckHalt, bs)
  | 0x14 => thenRead (readFrame bs) fun f bs => .ok (.trySend f, bs)
  | 0x15 => thenRead (readFrame bs) fun f bs => .ok (.enqueue f, bs)
  | 0x16 => .ok (.drainOne, bs)
  | 0x21 => thenRead (readRxIndication bs) fun i bs => .ok (.irqRx i, bs)
  | 0x22 => .ok (.irqStatus, bs)
  | 0x31 => .ok (.envXferDone, bs)
  | 0x32 =>
    thenRead (readSlot bs) fun i bs =>
    thenRead (readFrame bs) fun f bs =>
    .ok (.envRx i f, bs)
  | 0x33 => thenRead (readSlot bs) fun i bs => .ok (.envTxDone i, bs)
  | 0x34 => .ok (.envEwarnOn, bs)
  | 0x35 => .ok (.envEwarnOff, bs)
  | 0x36 => thenRead (readLost bs) fun o bs => .ok (.envBusoff o.1 o.2, bs)
  | 0x37 => thenRead (readLost bs) fun o bs => .ok (.envSilentHalt o.1 o.2, bs)
  | 0x38 => .ok (.envRecovered, bs)
  | 0x39 => thenRead (readFlag bs) fun r bs => .ok (.envErrSet r, bs)
  | 0x41 => .ok (.reset, bs)
  | _ => .error (.illegalCode code)

/-- The operation at the front of a byte sequence, and the bytes after it. -/
def decode : List Byte → Reads Instr
  | [] => .error .noCode
  | code :: bs => decodeOperands code bs

/-! ## The encoder -/

/-- The operation code of R56. -/
def Instr.opcode : Instr → Byte
  | .init _ => 0x01#8
  | .registerFilter _ _ _ => 0x02#8
  | .send _ => 0x03#8
  | .poll => 0x04#8
  | .tryReceive => 0x05#8
  | .rdCounters => 0x06#8
  | .reserveReceiveSlot _ _ _ => 0x11#8
  | .xferWait _ _ => 0x12#8
  | .precheckHalt => 0x13#8
  | .trySend _ => 0x14#8
  | .enqueue _ => 0x15#8
  | .drainOne => 0x16#8
  | .irqRx _ => 0x21#8
  | .irqStatus => 0x22#8
  | .envXferDone => 0x31#8
  | .envRx _ _ => 0x32#8
  | .envTxDone _ => 0x33#8
  | .envEwarnOn => 0x34#8
  | .envEwarnOff => 0x35#8
  | .envBusoff _ _ => 0x36#8
  | .envSilentHalt _ _ => 0x37#8
  | .envRecovered => 0x38#8
  | .envErrSet _ => 0x39#8
  | .reset => 0x41#8

/-- `OP[7:4]`, the class of an operation code (R56). -/
def opClassOf (code : Byte) : Nat := code.toNat / 16

/-- The code is one of the six the host command port accepts (R68). -/
def isHostCode (code : Byte) : Bool := decide (1 ≤ code.toNat) && decide (code.toNat ≤ 6)

/-- A host operation (R55). -/
def Instr.isHost (i : Instr) : Bool := isHostCode i.opcode

def writeFlag (b : Bool) : List Byte := [if b then 1#8 else 0#8]

def writeHalf (h : Half) : List Byte := [h.extractLsb' 0 8, h.extractLsb' 8 8]

def writeSlot (i : Nat) : List Byte := writeHalf (BitVec.ofNat 16 i)

def writeWord (w : Word) : List Byte :=
  [w.extractLsb' 0 8, w.extractLsb' 8 8, w.extractLsb' 16 8, w.extractLsb' 24 8]

def writePayload (p : Payload) : List Byte := [p.b0, p.b1, p.b2, p.b3, p.b4, p.b5, p.b6, p.b7]

/-- The 14-byte frame record of R58. -/
def writeFrame (f : Frame) : List Byte :=
  writeWord f.id ++ writePayload f.payload ++ [f.len] ++ writeFlag f.ext

def writeDataWords (w : DataWords) : List Byte :=
  writeHalf w.w0 ++ writeHalf w.w1 ++ writeHalf w.w2 ++ writeHalf w.w3

/-- Bits 31:0 of a packed image: two copies of the kind (for `kind` and `dir`), the tag, the identifier (R64). -/
def imageHead (kind : BitVec 2) (xtd : Bool) (id : Ident) : Word := kind ++ BitVec.ofBool xtd ++ id

/-- The 18-byte transfer image (R64). -/
def writeImage : XferImage → List Byte
  | .filter id mask xtd =>
    writeWord (imageHead 0#2 xtd id) ++ writeWord (0#3 ++ mask) ++ writeHalf 0#16 ++
      writeDataWords ⟨0#16, 0#16, 0#16, 0#16⟩
  | .txframe id xtd dlc w =>
    writeWord (imageHead 3#2 xtd id) ++ writeWord 0#32 ++ writeHalf (3#12 ++ dlc) ++ writeDataWords w

def writeSlots : List Nat → List Byte
  | [] => []
  | i :: rest => writeSlot i ++ writeSlots rest

def writeLost (lost : List Nat) (e : Bool) : List Byte :=
  writeFlag e ++ writeSlot lost.length ++ writeSlots lost

def writeFilter (mask value : Word) (extended : Bool) : List Byte :=
  writeWord mask ++ writeWord value ++ writeFlag extended

/-- The operand bytes of an operation, in the order of spec/opcode_table.json. -/
def Instr.operands : Instr → List Byte
  | .init b => writeWord (BitVec.ofNat 32 b.clkdiv) ++ writeWord (BitVec.ofNat 32 b.bt)
  | .registerFilter mask value extended => writeFilter mask value extended
  | .send f => writeFrame f
  | .poll => []
  | .tryReceive => []
  | .rdCounters => []
  | .reserveReceiveSlot mask value extended => writeFilter mask value extended
  | .xferWait target image => writeSlot target ++ writeImage image
  | .precheckHalt => []
  | .trySend f => writeFrame f
  | .enqueue f => writeFrame f
  | .drainOne => []
  | .irqRx i => writeSlot i
  | .irqStatus => []
  | .envXferDone => []
  | .envRx i f => writeSlot i ++ writeFrame f
  | .envTxDone i => writeSlot i
  | .envEwarnOn => []
  | .envEwarnOff => []
  | .envBusoff lost e => writeLost lost e
  | .envSilentHalt lost e => writeLost lost e
  | .envRecovered => []
  | .envErrSet r => writeFlag r
  | .reset => []

/-- The bytes of an operation. -/
def encode (i : Instr) : List Byte := i.opcode :: i.operands

/-! ## Words of the opcode table -/

/-- The bytes of a table word: its `nbits` bits, least significant byte first, then zero bytes for every operand
the table gives no bits, up to the longest operation with an empty slot set (21 bytes). -/
def tableBytes (nbits w : Nat) : List Byte := leBytes (nbits / 8) w ++ List.replicate 21 0#8

/-- What the decoder reads from a table word. -/
def decodeTableWord (nbits w : Nat) : Option Instr :=
  match decode (tableBytes nbits w) with
  | .ok r => some r.1
  | .error _ => none

/-! ## Packed views -/

/-- The 112-bit frame record of R58 as a number (`RES_FRAME`, `OPND_FRAME`). -/
def frameRecord (f : Frame) : Nat := leValue (writeFrame f)

/-- The 144-bit transfer image of R64 as a number. -/
def imageBits (image : XferImage) : Nat := leValue (writeImage image)

/-- The operation an indication code selects (R62). -/
def indicated (ind : Half) : Option Instr :=
  if ind.getLsbD 15 then
    if ind.extractLsb' 0 15 = 0#15 then some .irqStatus else none
  else some (.irqRx (ind.extractLsb' 0 15).toNat)

end Sys2Proof
end

