-- ==== Sys2Proof/Machine/State.lean ====
section
/-! DEFINITION. The state of the block: every piece of state of spec/10_state.md R11 to R33 as plain data, the
micro-step position of the foreground (R30), the result ports (spec/30_encoding.md R57), and the model's own fields
(parameters, offered inputs, issuing context, draw counter, programming order). -/

namespace Sys2Proof.Machine

/-! ## The message-object table, the shadow buffer and the queue -/

/-- One entry of the message-object table `MO` (R11). -/
structure MsgObj where
  id : Ident
  mask : Ident
  xtd : Bool
  dir : Bool
  dlc : Dlc
  w : DataWords
  txrqst : Bool
  eob : Bool
  armed : Bool
  deriving DecidableEq, Repr

/-- One entry of the shadow buffer `SH` (R16). -/
structure Shadow where
  id : Ident
  ext : Bool
  dlc : Dlc
  w : DataWords
  deriving DecidableEq, Repr

/-- The software transmit queue `Q` (R20). -/
structure Queue where
  ring : List Frame
  head : Nat
  count : Nat
  deriving DecidableEq, Repr

/-! ## Registers -/

/-- The fault counters `CNT` (R22). -/
structure Counters where
  boff : Nat
  ewarn : Nat
  deriving DecidableEq, Repr

/-- The controller control register `CTRL` (R23). -/
structure Ctrl where
  init : Bool
  ie : Bool
  deriving DecidableEq, Repr

/-- The controller status register `STAT` (R24). -/
structure Stat where
  err : Bool
  ewarn : Bool
  boff : Bool
  deriving DecidableEq, Repr

/-- The pending indications `INTPND` (R25). -/
structure IntPnd where
  slot : List Bool
  status : Bool
  deriving DecidableEq, Repr

/-- The transfer port `XFER` (R28); `XFER.kind` is `image.kind`. -/
structure Xfer where
  busy : Bool
  target : Nat
  image : XferImage
  deriving DecidableEq, Repr

/-! ## Results, marks and contexts -/

/-- The result codes (R60). -/
inductive ResultCode where
  | ok
  | noFreeSlot
  | queueFull
  | empty
  | noMessage
  deriving DecidableEq, Repr

/-- The result ports (R57): `RES_CODE` (`none` while no operation has returned), `RES_FRAME`, the slot index of
`SlotId` (R61), `RES_BOFF` and `RES_EWARN`. -/
structure Ports where
  code : Option ResultCode
  frame : Frame
  slot : Nat
  boff : Nat
  ewarn : Nat
  deriving DecidableEq, Repr

/-- The reasons of `raise Refuse(reason)` (R123). -/
inductive RefuseReason where
  | notInitialised
  | initTwice
  | illegalOp
  | badLength
  | badIdentifier
  | badFilterValue
  | sendFromIrq
  | overlap
  deriving DecidableEq, Repr

/-- The set `FAULT` of recorded fault reasons (R33, R124), one bit a reason. -/
structure FaultMarks where
  counterOverflow : Bool
  handshakeStall : Bool
  deriving DecidableEq, Repr

/-- The two execution contexts (R134). -/
inductive Context where
  | foreground
  | interrupt
  deriving DecidableEq, Repr

/-! ## The foreground's position -/

/-- Which operation a running TRY_SEND returns to: none (issued as itself), SEND, or DRAIN_ONE (within POLL or
issued as itself) (R71). -/
inductive Caller where
  | direct
  | send
  | drain (poll : Bool)
  deriving DecidableEq, Repr

/-- What follows a running PRECHECK_HALT: nothing (issued as itself), or TRY_SEND of a frame (R87, R71). -/
inductive AfterHalt where
  | stop
  | trySend (frame : Frame) (caller : Caller)
  deriving DecidableEq, Repr

/-- The seven field reads of TRY_RECEIVE, steps 2 to 8 (R83). -/
inductive RecvField where
  | id
  | ext
  | dlc
  | w0
  | w1
  | w2
  | w3
  deriving DecidableEq, Repr

/-- The micro-step position of the foreground (R30 (b)): which numbered step it takes next, with the operation's
operands and local values. A constructor's number is the step's number in the operation's rule. `seen` counts the
consecutive busy reads of a wait (R74). -/
inductive Fg where
  /-- no operation in progress -/
  | idle
  | init2 (baud : Baud)
  | init3 (bt : Nat)
  | init4
  | init5
  | init6
  | filter2 (slot : Nat) (mask value : Word) (extended : Bool)
  | filter3 (slot : Nat) (mask value : Word) (extended : Bool)
  | filter4 (slot seen : Nat)
  | filter5 (slot : Nat)
  | filter6
  | filter7
  | reserve2 (slot : Nat) (mask value : Word) (extended : Bool)
  | reserve3 (slot seen : Nat)
  | reserve4 (slot : Nat)
  | xferWait (seen : Nat)
  | halt2 (boff : Bool) (after : AfterHalt)
  | halt1 (after : AfterHalt)
  | trySend1 (frame : Frame) (caller : Caller)
  | trySend2 (frame : Frame) (slot : Nat) (caller : Caller)
  | trySend3 (frame : Frame) (seen : Nat) (caller : Caller)
  | trySend4 (frame : Frame) (caller : Caller)
  | send3 (frame : Frame) (r : ResultCode)
  | send4 (frame : Frame)
  | drain4 (r : ResultCode) (poll : Bool)
  | poll2
  | recv1 (slot : Nat)
  | recvRead (field : RecvField) (slot : Nat) (t : Shadow)
  | recv9 (slot : Nat) (t : Shadow)
  | recv10 (t : Shadow)
  | counters2
  | counters3
  /-- an operation that raised HandshakeStall: no further step (R124) -/
  | stalled
  deriving DecidableEq, Repr

/-! ## Inputs -/

/-- What the outside of the foreground offers to the next step (R34, assumption log 1). -/
inductive Input where
  /-- the foreground takes its next micro-step -/
  | advance
  /-- a command on the host command port (R57): its code, its operand ports, and the context it is issued from -/
  | command (ctx : Context) (code : Byte) (operands : OperandPorts)
  /-- the label of a step (R56, R62, R63): internal, interrupt, controller or reset; a host operation's label stands
  for its command, issued from the foreground -/
  | label (i : Instr)
  deriving DecidableEq, Repr

/-! ## The state -/

/-- The state of the block. -/
structure State where
  /-- the parameters (R6, R7); written by no step -/
  cfg : Params
  mo : List MsgObj
  inuse : List Bool
  rdy : List Bool
  sh : List Shadow
  q : Queue
  cnt : Counters
  ctrl : Ctrl
  stat : Stat
  intpnd : IntPnd
  irqEn : Bool
  /-- `CLKDIV` and `BT`, opaque words of no stated width (R27, assumption log 6) -/
  clkdiv : Nat
  bt : Nat
  xfer : Xfer
  inited : Bool
  fg : Fg
  ports : Ports
  /-- `BUS_TX`, `RX_OUT`, `TX_LOST`: ghost state (R32) -/
  busTx : List Frame
  rxOut : List Frame
  txLost : List Frame
  /-- `FAULT` and `REFUSED`: model marks (R33); the mark holds the reason of the latest refusal -/
  faults : FaultMarks
  refused : Option RefuseReason
  /-- the pending transmit slots in the order their `TXFRAME` transfers completed, for `TX_ORDER` (R107) -/
  txSeq : List Nat
  /-- the context the operation being executed was issued from (R134) -/
  issuer : Context
  /-- the inputs offered to the block, the next one first (R34) -/
  inputs : List Input
  /-- how many draws have been made (assumption log 4) -/
  draws : Nat
  deriving DecidableEq, Repr

/-- Why a step stops the machine. -/
inductive Fault where
  /-- Raised by IRQ_RX, ENV_RX, ENV_TX_DONE, ENV_BUSOFF, ENV_SILENT_HALT and XFER_WAIT when the step label names a
  slot outside the index space it indexes (R42, R62). Safe: no such step exists. -/
  | noSuchSlot (slot : Nat)
  deriving DecidableEq, Repr

/-- Why a step has no meaning. -/
inductive Refusal where
  /-- Raised by an arm of `exec` whose instruction has no meaning yet; no arm does. Safe. -/
  | notModelled (mnemonic : String)
  deriving DecidableEq, Repr

/-! ## Reset -/

/-- Four data words drawn for a reset. -/
def drawnWords (site : Nat → DrawSite) (n : Nat) : DataWords :=
  ⟨Config.draw 16 (site 0) n, Config.draw 16 (site 1) n, Config.draw 16 (site 2) n, Config.draw 16 (site 3) n⟩

/-- A message object after reset: `txrqst` and `armed` 0, the other fields drawn (R36). -/
def MsgObj.afterReset (n i : Nat) : MsgObj :=
  { id := Config.draw 29 (.moId i) n, mask := Config.draw 29 (.moMask i) n,
    xtd := Config.drawBit (.moXtd i) n, dir := Config.drawBit (.moDir i) n, dlc := Config.draw 4 (.moDlc i) n,
    w := drawnWords (.moWord i) n, txrqst := false, eob := Config.drawBit (.moEob i) n, armed := false }

/-- A shadow entry after reset: drawn (R36). -/
def Shadow.afterReset (n i : Nat) : Shadow :=
  { id := Config.draw 29 (.shId i) n, ext := Config.drawBit (.shExt i) n,
    dlc := Config.draw 4 (.shDlc i) n, w := drawnWords (.shWord i) n }

/-- A ring entry after reset: drawn (R36). -/
def drawnFrame (n k : Nat) : Frame :=
  { id := Config.draw 32 (.ringId k) n,
    payload := ⟨Config.draw 8 (.ringByte k 0) n, Config.draw 8 (.ringByte k 1) n, Config.draw 8 (.ringByte k 2) n,
      Config.draw 8 (.ringByte k 3) n, Config.draw 8 (.ringByte k 4) n, Config.draw 8 (.ringByte k 5) n,
      Config.draw 8 (.ringByte k 6) n, Config.draw 8 (.ringByte k 7) n⟩,
    len := Config.draw 8 (.ringLen k) n, ext := Config.drawBit (.ringExt k) n }

/-- `XFER.kind` and `XFER.image` after reset: drawn (R36). -/
def drawnImage (n : Nat) : XferImage :=
  if Config.drawBit .xferKind n then
    .txframe (Config.draw 29 .xferId n) (Config.drawBit .xferXtd n) (Config.draw 4 .xferDlc n) (drawnWords .xferWord n)
  else
    .filter (Config.draw 29 .xferId n) (Config.draw 29 .xferMask n) (Config.drawBit .xferXtd n)

/-- The zero frame, on `RES_FRAME` after reset (DESIGN CHOICE, assumption log 8). -/
def zeroFrame : Frame := { id := 0#32, payload := ⟨0#8, 0#8, 0#8, 0#8, 0#8, 0#8, 0#8, 0#8⟩, len := 0#8, ext := false }

/-- The reset state of R36 for a block with parameters `p`: the data fields take the `n`-th draw, and the outside
keeps offering `inputs`. -/
def State.afterReset (p : Params) (n : Nat) (inputs : List Input) : State :=
  { cfg := p
    mo := (List.range p.N).map (MsgObj.afterReset n)
    inuse := List.replicate p.NRX false
    rdy := List.replicate p.NRX false
    sh := (List.range p.NRX).map (Shadow.afterReset n)
    q := { ring := (List.range p.QCAP).map (drawnFrame n), head := 0, count := 0 }
    cnt := { boff := 0, ewarn := 0 }
    ctrl := { init := true, ie := false }
    stat := { err := false, ewarn := false, boff := false }
    intpnd := { slot := List.replicate p.NRX false, status := false }
    irqEn := true
    clkdiv := Config.drawNat .clkdiv n
    bt := Config.drawNat .bt n
    xfer := { busy := false, target := Config.drawNat .xferTarget n % p.N, image := drawnImage n }
    inited := false
    fg := .idle
    ports := { code := none, frame := zeroFrame, slot := 0, boff := 0, ewarn := 0 }
    busTx := []
    rxOut := []
    txLost := []
    faults := { counterOverflow := false, handshakeStall := false }
    refused := none
    txSeq := []
    issuer := .foreground
    inputs := inputs
    draws := n + 1 }

/-- The machine right after reset (R36, R140), for the instance `Params.document`, with nothing offered. -/
def State.reset : State := State.afterReset Params.document 0 []

end Sys2Proof.Machine
end

