-- ==== Sys2Proof/Machine/Flags.lean ====
section
/-! DEFINITION. Every computation over flags and status bits: the pending bitmap (spec/10_state.md R17), the fault
monitor's derived state (R31), the packed views of spec/30_encoding.md R60, R65 and R66, the counters' range (R22),
the acceptance predicate and the two policies of spec/45_controller_env.md R106 and R107, and the gates of
spec/60_exceptions.md R128 and R129. -/

namespace Sys2Proof.Machine

/-! ## Reading the arrays -/

/-- What an array read outside the array gives; no rule reads there (R44). -/
def MsgObj.none : MsgObj :=
  { id := 0, mask := 0, xtd := false, dir := false, dlc := 0, w := ⟨0, 0, 0, 0⟩,
    txrqst := false, eob := false, armed := false }

/-- What a shadow read outside the buffer gives; no rule reads there (R44). -/
def Shadow.none : Shadow := { id := 0, ext := false, dlc := 0, w := ⟨0, 0, 0, 0⟩ }

/-- `MO[i]`. -/
def State.moAt (s : State) (i : Nat) : MsgObj := s.mo.getD i MsgObj.none

/-- `SH[i]`. -/
def State.shAt (s : State) (i : Nat) : Shadow := s.sh.getD i Shadow.none

/-- `RDY[i]`. -/
def State.rdyAt (s : State) (i : Nat) : Bool := s.rdy.getD i false

/-- `INUSE[i]`. -/
def State.inuseAt (s : State) (i : Nat) : Bool := s.inuse.getD i false

/-- `INTPND.slot[i]`. -/
def State.slotPending (s : State) (i : Nat) : Bool := s.intpnd.slot.getD i false

/-- `Q.ring[k]`. -/
def State.ringAt (s : State) (k : Nat) : Frame := s.q.ring.getD k zeroFrame

/-- `TXPEND[i]`, which is `MO[i].txrqst` (R17). -/
def State.txPending (s : State) (i : Nat) : Bool := (s.moAt i).txrqst

/-! ## Scans -/

/-- The least index from `lo` up to but not including `hi` for which `p` holds (R8). -/
def leastIn (lo hi : Nat) (p : Nat → Bool) : Option Nat := (List.range' lo (hi - lo)).find? p

/-- The first receive slot not in use (R75 step 1). -/
def State.freeRxSlot (s : State) : Option Nat := leastIn 0 s.cfg.NRX fun i => !s.inuseAt i

/-- The first transmit slot not pending (R89 step 1). -/
def State.freeTxSlot (s : State) : Option Nat := leastIn s.cfg.NRX s.cfg.N fun i => !s.txPending i

/-- The slot that the operation issuing a transfer of this kind takes (R71 (f), R75, R89). -/
def State.freeSlotFor (s : State) : XferKind → Option Nat
  | .filter => s.freeRxSlot
  | .txframe => s.freeTxSlot

/-! ## Derived values and packed views -/

/-- The fault monitor's states (R31). -/
inductive MonitorState where
  | normal
  | warning
  | busOff
  deriving DecidableEq, Repr

/-- `FM` (R31): a function of the status bits, stored nowhere. -/
def State.fm (s : State) : MonitorState :=
  if s.stat.boff then .busOff else if s.stat.ewarn then .warning else .normal

/-- `CTRL` as a word: bit 0 INIT, bit 1 IE, other bits zero (R66). How many other bits there are the spec does not say:
the 32 bits are this view's (DESIGN CHOICE, assumption log 19). -/
def ctrlWord (c : Ctrl) : Word := (0#30 ++ BitVec.ofBool c.ie ++ BitVec.ofBool c.init : BitVec 32)

/-- `STAT` as a word: bit 0 ERR, bit 1 EWARN, bit 2 BOFF, other bits zero (R66), 32 bits as `ctrlWord` (DESIGN CHOICE,
assumption log 19). -/
def statWord (t : Stat) : Word :=
  (0#29 ++ BitVec.ofBool t.boff ++ BitVec.ofBool t.ewarn ++ BitVec.ofBool t.err : BitVec 32)

/-- `INTPND.slot` as a number: bit `i` for slot `i` (R66). -/
def slotBits : List Bool → Nat
  | [] => 0
  | b :: rest => b.toNat + 2 * slotBits rest

/-- The number of a result code on `RES_CODE` (R60). -/
def resultNumber : ResultCode → BitVec 3
  | .ok => 0
  | .noFreeSlot => 1
  | .queueFull => 2
  | .empty => 3
  | .noMessage => 4

/-- The 112-bit packing of a shadow entry (R65). -/
def shadowBits (e : Shadow) : BitVec 112 :=
  (e.w.w3 ++ e.w.w2 ++ e.w.w1 ++ e.w.w0 ++ 0#11 ++ BitVec.ofBool e.ext ++ e.dlc ++ 0#3 ++ e.id : BitVec 112)

/-! ## Counters -/

/-- `ones(w)` (R8). -/
def ones (w : Nat) : Nat := 2 ^ w - 1

/-- A counter that an increment would take past its width (R22). -/
def State.counterFull (s : State) (c : Nat) : Bool := decide (ones s.cfg.CNTW ≤ c)

/-! ## Acceptance and the controller's policies -/

/-- `match(i, f)` of R106 for the message object `m`: armed, receive direction, equal tags, and no identifier bit
below `W` that the mask selects differs. -/
def accepts (m : MsgObj) (f : Frame) : Bool :=
  m.armed && !m.dir && (f.ext == m.xtd) &&
    decide ((((f.id.setWidth 29 ^^^ m.id) &&& m.mask).toNat) % 2 ^ identWidth m.xtd = 0)

/-- `RX_MATCH_POLICY` lets slot `i` take frame `f` (R106). -/
def State.rxPolicyAllows (s : State) (i : Nat) (f : Frame) : Bool :=
  match s.cfg.rxMatch with
  | .any => true
  | .lowestIndex => (leastIn 0 i fun j => accepts (s.moAt j) f).isNone

/-- `TX_ORDER` lets the controller transmit pending slot `i` next (R107). -/
def State.txPolicyAllows (s : State) (i : Nat) : Bool :=
  match s.cfg.txOrder with
  | .any => true
  | .programmingOrder => s.txSeq.head? == some i
  | .lowestIndex => (leastIn s.cfg.NRX i fun j => s.txPending j).isNone

/-- The controller is running: neither halted (R112) nor bus-off. -/
def State.onBus (s : State) : Bool := !s.ctrl.init && !s.stat.boff

/-! ## Interrupt gates -/

/-- Gates (a), (b) and the refusal part of (d) of R128, common to every IRQ step. -/
def State.irqGate (s : State) : Bool := s.ctrl.ie && s.irqEn && s.refused.isNone

/-- `IRQ_ORDER` lets the slot indication `i` be handled next (R129). After a CounterOverflow the status indication stays
pending (R99) and is handled no more, so under `status_first_ascending` no slot indication is handled either until
RESET; under `any` IRQ_RX goes on (DEDUCED, assumption log 9). -/
def State.irqOrderAllows (s : State) (i : Nat) : Bool :=
  match s.cfg.irqOrder with
  | .any => true
  | .statusFirstAscending => !s.intpnd.status && (leastIn 0 i fun j => s.slotPending j).isNone

/-- An IRQ_RX step for slot `i` is enabled (R81, R128). -/
def State.irqRxEnabled (s : State) (i : Nat) : Bool := s.irqGate && s.slotPending i && s.irqOrderAllows i

/-- An IRQ_STATUS step is enabled (R99, R128). After a CounterOverflow the interrupt agent takes no further step in
that operation (R124; DEDUCED, assumption log 9). -/
def State.irqStatusEnabled (s : State) : Bool := s.irqGate && s.intpnd.status && !s.faults.counterOverflow

end Sys2Proof.Machine
end

