-- ==== Sys2Proof/Machine/Ops.lean ====
section
/-! DEFINITION. The named operations over state that the meanings are made of: writes of single array entries
(spec/20_memory.md R45, R46), the two model outcomes `raise Refuse` and `raise Fault` (spec/60_exceptions.md R123,
R124), how a foreground operation begins, waits and returns (R121, R125, spec/40_init_and_filter.md R74), the raising
of indications (spec/45_controller_env.md R113) and draws. The block takes no exceptions (R119); an interrupt saves
nothing and changes no mode (R130), so `raiseRefuse` and `raiseFault` are its only entries. -/

namespace Sys2Proof.Machine

/-- The outcome type of every meaning. -/
abbrev Outcome := Host.Outcome State Fault Refusal

/-! ## Single-entry writes -/

/-- `MO[i] <- m`. -/
def State.setMo (s : State) (i : Nat) (m : MsgObj) : State := { s with mo := s.mo.set i m }

/-- `SH[i] <- e`. -/
def State.setSh (s : State) (i : Nat) (e : Shadow) : State := { s with sh := s.sh.set i e }

/-- `RDY[i] <- b`. -/
def State.setRdy (s : State) (i : Nat) (b : Bool) : State := { s with rdy := s.rdy.set i b }

/-- `INUSE[i] <- 1` (R14: no operation clears it). -/
def State.setInuse (s : State) (i : Nat) : State := { s with inuse := s.inuse.set i true }

/-- `INTPND.slot[i] <- b`. -/
def State.setSlotPending (s : State) (i : Nat) (b : Bool) : State :=
  { s with intpnd := { s.intpnd with slot := s.intpnd.slot.set i b } }

/-- `INTPND.status <- b`. -/
def State.setStatusPending (s : State) (b : Bool) : State := { s with intpnd := { s.intpnd with status := b } }

/-- `CTRL.INIT <- b`. -/
def State.setHalt (s : State) (b : Bool) : State := { s with ctrl := { s.ctrl with init := b } }

/-- The foreground's next position. -/
def State.goto (s : State) (p : Fg) : State := { s with fg := p }

/-! ## Model outcomes -/

/-- `raise Refuse(reason)` (R123): the mark is set and nothing else changes. -/
def State.raiseRefuse (s : State) (r : RefuseReason) : State := { s with refused := some r }

/-- `raise Fault(CounterOverflow)` (R99, R124): the reason is recorded and nothing else changes. -/
def State.raiseCounterOverflow (s : State) : State :=
  { s with faults := { s.faults with counterOverflow := true } }

/-- `raise Fault(HandshakeStall)` (R74, R124): the reason is recorded and the foreground takes no further step in that
operation. R124 does not say whether it may begin another: the operation stays in progress and never returns (R147),
so every later host operation is refused with Overlap until RESET (DESIGN CHOICE, assumption log 20). -/
def State.raiseHandshakeStall (s : State) : State :=
  { s with faults := { s.faults with handshakeStall := true }, fg := .stalled }

/-! ## Foreground operations -/

/-- An operation starts: `RES_CODE` holds no result until it returns (R121). -/
def State.begin (s : State) : State := { s with ports := { s.ports with code := none } }

/-- `return r` of the operation in progress (R121): the result appears and the foreground is idle. -/
def State.ret (s : State) (r : ResultCode) : State :=
  { s with ports := { s.ports with code := some r }, fg := .idle }

/-- Why a host operation is turned away before its own preconditions: it is issued from the interrupt context
(R134), or another operation is in progress (R123). The order of the two checks is a DESIGN CHOICE
(assumption log 10). -/
def State.contextRefusal (s : State) : Option RefuseReason :=
  if s.issuer = .interrupt then some .sendFromIrq
  else if s.fg = .idle then none
  else some .overlap

/-- A foreground operation with precondition `pre` and first micro-step `body` (R52, R123, R129): the refusals first,
then the sampling of the operands and the first micro-step. -/
def State.issue (s : State) (pre : Option RefuseReason) (body : State → State) : Outcome :=
  match s.contextRefusal with
  | some r => .next (s.raiseRefuse r)
  | none =>
    match pre with
    | some r => .next (s.raiseRefuse r)
    | none => .next (body s.begin)

/-- The precondition `INITED = 1` (R123). -/
def State.needsInit (s : State) : Option RefuseReason := if s.inited then none else some .notInitialised

/-- The refusal of an ill-formed frame: length first, then identifier (R69). -/
def frameRefusal (f : Frame) : Option RefuseReason :=
  if lengthOk f = false then some .badLength
  else if fitsIdent f.id f.ext = false then some .badIdentifier
  else none

/-- The refusal of a filter value with a bit at or above its width (R69). -/
def filterRefusal (value : Word) (extended : Bool) : Option RefuseReason :=
  if fitsIdent value extended then none else some .badFilterValue

/-! ## The transfer handshake (R74) -/

/-- The issue step: the staged fields are written and `busy` is set. It requires `busy = 0`; while a transfer is
pending the foreground has no such step (assumption log 11). -/
def State.issueXfer (s : State) (target : Nat) (image : XferImage) (next : Fg) : State :=
  if s.xfer.busy then s
  else { s with xfer := { busy := true, target := target, image := image }, fg := next }

/-- The wait step: `done` once `busy` is 0. While it is 1 the foreground is held, or, with a ceiling, has read it once
more: the read that makes the ceiling raises HandshakeStall. -/
def State.waitXfer (s : State) (seen : Nat) (again : Nat → Fg) (done : State → State) : State :=
  if s.xfer.busy then
    match s.cfg.ceiling with
    | none => s
    | some c => if c ≤ seen + 1 then s.raiseHandshakeStall else s.goto (again (seen + 1))
  else done s

/-! ## Indications and draws -/

/-- Raise the slot indication `i`, if `CTRL.IE` is 1 (R106, R113). -/
def State.raiseSlot (s : State) (i : Nat) : State := if s.ctrl.ie then s.setSlotPending i true else s

/-- Raise the status indication, if `CTRL.IE` is 1 (R108, R109, R113, R114). -/
def State.raiseStatus (s : State) : State := if s.ctrl.ie then s.setStatusPending true else s

/-- An event of the environment or of the interrupt context whose precondition is `enabled`. A step that is not
enabled does not occur: the label is consumed and nothing changes (DESIGN CHOICE, assumption log 3). -/
def State.event (s : State) (enabled : Bool) (effect : State → State) : Outcome :=
  if enabled then .next (effect s) else .next s

/-- An event that names slot `i` of an index space of `size` entries (R42, R62). -/
def State.slotEvent (s : State) (i size : Nat) (enabled : Bool) (effect : State → State) : Outcome :=
  if size ≤ i then .fault (.noSuchSlot i) else s.event enabled effect

end Sys2Proof.Machine
end

