-- ==== Sys2Proof/Machine/Controller.lean ====
section
/-! DEFINITION. The controller's events (spec/45_controller_env.md R105 to R116), each one atomic step with a
precondition and an effect. -/

namespace Sys2Proof.Machine

/-! ## ENV_XFER_DONE (R105) -/

/-- A slot after a FILTER image: `dlc`, the data words and `eob` stay. -/
def MsgObj.withFilter (m : MsgObj) (id mask : Ident) (xtd : Bool) : MsgObj :=
  { m with id := id, mask := mask, xtd := xtd, dir := false, txrqst := false, armed := true }

/-- A slot after a TXFRAME image, all fields; `mask` is unspecified (R89), so it is the free value `freeMask`. -/
def txObject (id : Ident) (xtd : Bool) (dlc : Dlc) (w : DataWords) (freeMask : Ident) : MsgObj :=
  { id := id, mask := freeMask, xtd := xtd, dir := true, dlc := dlc, w := w,
    txrqst := true, eob := true, armed := false }

/-- The effect of ENV_XFER_DONE: the image lands in `MO[XFER.target]` and `busy` clears. -/
def xferDoneEffect (s : State) : State :=
  let t := s.xfer.target
  match s.xfer.image with
  | .filter id mask xtd =>
    { s.setMo t ((s.moAt t).withFilter id mask xtd) with xfer := { s.xfer with busy := false } }
  | .txframe id xtd dlc w =>
    { s.setMo t (txObject id xtd dlc w (Config.draw 29 (.txMask t) s.draws)) with
        xfer := { s.xfer with busy := false }
        txSeq := s.txSeq.filter (· ≠ t) ++ [t]
        draws := s.draws + 1 }

/-- ENV_XFER_DONE: enabled while a transfer is pending, whatever the halt bit and the status are. -/
def execEnvXferDone (s : State) : Outcome := s.event s.xfer.busy xferDoneEffect

/-! ## ENV_RX (R106) -/

/-- The precondition of ENV_RX. -/
def State.rxEnabled (s : State) (i : Nat) (f : Frame) : Bool :=
  s.onBus && decide (i < s.cfg.NRX) && frameOk f && accepts (s.moAt i) f && s.rxPolicyAllows i f

/-- A slot after a frame was stored into it. -/
def MsgObj.withFrame (m : MsgObj) (f : Frame) : MsgObj :=
  { m with id := f.id.setWidth 29, dlc := f.len.setWidth 4, w := pack f.payload }

/-- The effect of ENV_RX: the frame overwrites the slot and the slot indication is raised. -/
def rxEffect (i : Nat) (f : Frame) (s : State) : State :=
  (s.setMo i ((s.moAt i).withFrame f)).raiseSlot i

/-- ENV_RX. -/
def execEnvRx (i : Nat) (f : Frame) (s : State) : Outcome := s.slotEvent i s.cfg.N (s.rxEnabled i f) (rxEffect i f)

/-! ## ENV_TX_DONE (R107) -/

/-- The frame a transmit slot holds (R107). -/
def frameOfSlot (m : MsgObj) : Frame := frameOfFields m.id m.xtd m.dlc m.w

/-- The precondition of ENV_TX_DONE. -/
def State.txEnabled (s : State) (i : Nat) : Bool :=
  s.onBus && decide (s.cfg.NRX ≤ i) && decide (i < s.cfg.N) && (s.moAt i).txrqst && (s.moAt i).dir &&
    s.txPolicyAllows i

/-- The effect of ENV_TX_DONE: the frame is on the bus and the slot is free; no indication. -/
def txDoneEffect (i : Nat) (s : State) : State :=
  { s.setMo i { s.moAt i with txrqst := false } with
      busTx := s.busTx ++ [frameOfSlot (s.moAt i)]
      txSeq := s.txSeq.filter (· ≠ i) }

/-- ENV_TX_DONE. -/
def execEnvTxDone (i : Nat) (s : State) : Outcome := s.slotEvent i s.cfg.N (s.txEnabled i) (txDoneEffect i)

/-! ## Error-warning (R108, R115) -/

/-- ENV_EWARN_ON. -/
def execEnvEwarnOn (s : State) : Outcome :=
  s.event (!s.ctrl.init && !s.stat.ewarn && !s.stat.boff) fun s =>
    { s with stat := { s.stat with ewarn := true } }.raiseStatus

/-- ENV_EWARN_OFF: not disabled by the halt bit (R112); no indication. -/
def execEnvEwarnOff (s : State) : Outcome :=
  s.event (s.stat.ewarn && !s.stat.boff) fun s => { s with stat := { s.stat with ewarn := false } }

/-! ## Bus-off (R109, R110, R111, R116) -/

/-- `S` is a set of pending transmit slots (R109). -/
def State.abandonable (s : State) (lost : List Nat) : Bool :=
  lost.all fun i => decide (s.cfg.NRX ≤ i) && decide (i < s.cfg.N) && s.txPending i

/-- The precondition of ENV_BUSOFF and ENV_SILENT_HALT. -/
def State.busoffEnabled (s : State) (lost : List Nat) : Bool := s.onBus && s.abandonable lost

/-- The frames of the slots of `S`, by slot index. -/
def State.framesOf (s : State) (lost : List Nat) : List Frame :=
  ((List.range s.cfg.N).filter (· ∈ lost)).map fun i => frameOfSlot (s.moAt i)

/-- What bus-off and a silent halt share: the fault state is entered, the controller halts, and the frames of `S`
are abandoned. -/
def busoffEffect (lost : List Nat) (e : Bool) (s : State) : State :=
  { s with
    stat := { s.stat with boff := true, ewarn := e }
    ctrl := { s.ctrl with init := true }
    mo := s.mo.mapIdx fun i m => if i ∈ lost then { m with txrqst := false } else m
    txLost := s.txLost ++ s.framesOf lost
    txSeq := s.txSeq.filter (· ∉ lost) }

/-- The first slot of `S` that is no slot of the block. -/
def State.badSlot (s : State) (lost : List Nat) : Option Nat := lost.find? fun i => decide (s.cfg.N ≤ i)

/-- ENV_BUSOFF: with a status indication. -/
def execEnvBusoff (lost : List Nat) (e : Bool) (s : State) : Outcome :=
  match s.badSlot lost with
  | some i => .fault (.noSuchSlot i)
  | none => s.event (s.busoffEnabled lost) fun s => (busoffEffect lost e s).raiseStatus

/-- ENV_SILENT_HALT: without an indication. -/
def execEnvSilentHalt (lost : List Nat) (e : Bool) (s : State) : Outcome :=
  match s.badSlot lost with
  | some i => .fault (.noSuchSlot i)
  | none => s.event (s.busoffEnabled lost) (busoffEffect lost e)

/-- ENV_RECOVERED: needs the halt bit clear, and clears both status levels; no indication. -/
def execEnvRecovered (s : State) : Outcome :=
  s.event (s.stat.boff && !s.ctrl.init) fun s => { s with stat := { s.stat with boff := false, ewarn := false } }

/-! ## The error condition (R114) -/

/-- ENV_ERR_SET. -/
def execEnvErrSet (r : Bool) (s : State) : Outcome :=
  s.event (!s.ctrl.init) fun s =>
    let s := { s with stat := { s.stat with err := true } }
    if r then s.raiseStatus else s

end Sys2Proof.Machine
end

