-- ==== Sys2Proof/Machine/FaultMonitor.lean ====
section
/-! DEFINITION. IRQ_STATUS and RD_COUNTERS (spec/44_fault_monitor.md R99, R102). -/

namespace Sys2Proof.Machine

/-! ## IRQ_STATUS (R99) -/

/-- The effect of IRQ_STATUS: bus-off first, then error-warning, then neither; an increment past the counter's width
raises CounterOverflow in place of the whole step. -/
def irqStatusEffect (s : State) : State :=
  if s.stat.boff then
    if s.counterFull s.cnt.boff then s.raiseCounterOverflow
    else ({ s with cnt := { s.cnt with boff := s.cnt.boff + 1 } }.setHalt false).setStatusPending false
  else if s.stat.ewarn then
    if s.counterFull s.cnt.ewarn then s.raiseCounterOverflow
    else { s with cnt := { s.cnt with ewarn := s.cnt.ewarn + 1 } }.setStatusPending false
  else s.setStatusPending false

/-- IRQ_STATUS. -/
def execIrqStatus (s : State) : Outcome := s.event s.irqStatusEnabled irqStatusEffect

/-! ## RD_COUNTERS (R102) -/

/-- RD_COUNTERS, step 1: reads `CNT.boff`. It may be issued before INIT. -/
def execRdCounters (s : State) : Outcome :=
  s.issue none fun s => { s with ports := { s.ports with boff := s.cnt.boff }, fg := .counters2 }

/-- RD_COUNTERS, step 2: reads `CNT.ewarn`. -/
def microCounters2 (s : State) : State :=
  { s with ports := { s.ports with ewarn := s.cnt.ewarn }, fg := .counters3 }

/-- RD_COUNTERS, step 3: returns Ok. -/
def microCounters3 (s : State) : State := s.ret .ok

end Sys2Proof.Machine
end

