-- ==== Sys2Proof/Machine/InitFilter.lean ====
section
/-! DEFINITION. INIT, XFER_WAIT, RESERVE_RECEIVE_SLOT and REGISTER_FILTER (spec/40_init_and_filter.md R73 to R77):
for each its meaning, which is the operation's refusals and first micro-step, and its later micro-steps, which
`Foreground.lean` dispatches to. -/

namespace Sys2Proof.Machine

/-! ## INIT (R73) -/

/-- INIT, step 1: halts the controller. -/
def execInit (baud : Baud) (s : State) : Outcome :=
  s.issue (if s.inited then some .initTwice else none) fun s => (s.setHalt true).goto (.init2 baud)

/-- INIT, step 2: selects the clock divider. -/
def microInit2 (baud : Baud) (s : State) : State := { s with clkdiv := baud.clkdiv, fg := .init3 baud.bt }

/-- INIT, step 3: programs bit timing. -/
def microInit3 (bt : Nat) (s : State) : State := { s with bt := bt, fg := .init4 }

/-- INIT, step 4: releases the halt. -/
def microInit4 (s : State) : State := (s.setHalt false).goto .init5

/-- INIT, step 5: enables the interrupt sources. -/
def microInit5 (s : State) : State := { s with ctrl := { s.ctrl with ie := true }, fg := .init6 }

/-- INIT, step 6: initialised; returns Ok. -/
def microInit6 (s : State) : State := { s with inited := true }.ret .ok

/-! ## XFER_WAIT (R74) -/

/-- The target lies in the region of the image's kind (R12), and the image is one of a checked operand (R64, R67). -/
def State.xferOk (s : State) (target : Nat) (image : XferImage) : Bool :=
  imageOk image &&
    match image.kind with
    | .filter => decide (target < s.cfg.NRX)
    | .txframe => decide (s.cfg.NRX ≤ target) && decide (target < s.cfg.N)

/-- The operands are those a caller of XFER_WAIT gives it (R71 (f)): the image of a checked operand, and the slot that
RESERVE_RECEIVE_SLOT's or TRY_SEND's scan takes. So an XFER_WAIT issued as itself moves no frame past the allocator
(R2), reprograms no reserved filter (R76, R144) and overwrites no pending frame (DEDUCED, assumption log 21). -/
def State.xferAllowed (s : State) (target : Nat) (image : XferImage) : Bool :=
  imageOk image && decide (s.freeSlotFor image.kind = some target)

/-- Where the foreground waits after the issue step. The issue and the wait are micro-steps of the calling operation (R74),
so an XFER_WAIT issued as itself is its caller from there on (R71 (f); DEDUCED, assumption log 21): for a FILTER image
RESERVE_RECEIVE_SLOT, whose step 4 marks the slot after the wait, so that no later scan takes the slot again and reprograms
it under a frame it holds (R76, R85); for a TXFRAME image TRY_SEND, which after the wait only returns. -/
def xferWaitPosition (target : Nat) : XferImage → Fg
  | .filter _ _ _ => .reserve3 target 0
  | .txframe _ _ _ _ => .xferWait 0

/-- XFER_WAIT issued as itself: the issue step, with the operands a caller gives it; with any others the step is not
enabled (assumption log 3). -/
def execXferWait (target : Nat) (image : XferImage) (s : State) : Outcome :=
  if s.cfg.N ≤ target then .fault (.noSuchSlot target)
  else if s.xferAllowed target image then
    s.issue none fun s => s.issueXfer target image (xferWaitPosition target image)
  else .next s

/-- XFER_WAIT issued as itself with a TXFRAME image: the wait step. It has no result of its own; the model reports Ok, which
is TRY_SEND's, when it ends (assumption log 11). -/
def microXferWait (seen : Nat) (s : State) : State := s.waitXfer seen .xferWait fun s => s.ret .ok

/-! ## RESERVE_RECEIVE_SLOT (R75) -/

/-- RESERVE_RECEIVE_SLOT issued as itself, step 1: the scan of the receive region. REGISTER_FILTER runs it with the gate
closed; its own label leaves the gate alone (DESIGN CHOICE, assumption log 23). -/
def execReserveReceiveSlot (mask value : Word) (extended : Bool) (s : State) : Outcome :=
  s.issue (filterRefusal value extended) fun s =>
    match s.freeRxSlot with
    | none => s.ret .noFreeSlot
    | some i => s.goto (.reserve2 i mask value extended)

/-- RESERVE_RECEIVE_SLOT, step 2: the issue. -/
def microReserve2 (i : Nat) (mask value : Word) (extended : Bool) (s : State) : State :=
  s.issueXfer i (filterImage mask value extended) (.reserve3 i 0)

/-- RESERVE_RECEIVE_SLOT, step 3: the wait. -/
def microReserve3 (i seen : Nat) (s : State) : State :=
  s.waitXfer seen (.reserve3 i) fun s => s.goto (.reserve4 i)

/-- RESERVE_RECEIVE_SLOT, step 4: marks the slot in use and returns `SlotId(i)`, carried as Ok and the index (R61). -/
def microReserve4 (i : Nat) (s : State) : State :=
  let s := s.setInuse i
  { s with ports := { s.ports with slot := i } }.ret .ok

/-! ## REGISTER_FILTER (R77) -/

/-- REGISTER_FILTER, step 1: the scan; a refusal or NoFreeSlot leaves the interrupt gate alone. -/
def execRegisterFilter (mask value : Word) (extended : Bool) (s : State) : Outcome :=
  s.issue (s.needsInit.or (filterRefusal value extended)) fun s =>
    match s.freeRxSlot with
    | none => s.ret .noFreeSlot
    | some i => s.goto (.filter2 i mask value extended)

/-- REGISTER_FILTER, step 2: disables interrupts. -/
def microFilter2 (i : Nat) (mask value : Word) (extended : Bool) (s : State) : State :=
  { s with irqEn := false, fg := .filter3 i mask value extended }

/-- REGISTER_FILTER, step 3: the issue. -/
def microFilter3 (i : Nat) (mask value : Word) (extended : Bool) (s : State) : State :=
  s.issueXfer i (filterImage mask value extended) (.filter4 i 0)

/-- REGISTER_FILTER, step 4: the wait. -/
def microFilter4 (i seen : Nat) (s : State) : State :=
  s.waitXfer seen (.filter4 i) fun s => s.goto (.filter5 i)

/-- REGISTER_FILTER, step 5: marks the slot in use. -/
def microFilter5 (i : Nat) (s : State) : State := (s.setInuse i).goto .filter6

/-- REGISTER_FILTER, step 6: re-enables interrupts, whatever the gate was before. -/
def microFilter6 (s : State) : State := { s with irqEn := true, fg := .filter7 }

/-- REGISTER_FILTER, step 7: returns Ok; the slot index is dropped. -/
def microFilter7 (s : State) : State := s.ret .ok

end Sys2Proof.Machine
end

