-- ==== Sys2Proof/Machine/Receive.lean ====
section
/-! DEFINITION. IRQ_RX, one atomic step of the interrupt context, and TRY_RECEIVE, the consumer poll, field by field
(spec/41_receive.md R81, R83). -/

namespace Sys2Proof.Machine

/-! ## IRQ_RX (R81) -/

/-- What IRQ_RX copies from a slot to the shadow buffer. -/
def shadowOf (m : MsgObj) : Shadow := { id := m.id, ext := m.xtd, dlc := m.dlc, w := m.w }

/-- The effect of IRQ_RX for slot `i`: with an error condition flagged, clear it and skip the event; else copy the
slot and set its ready flag. Both consume the indication. -/
def irqRxEffect (i : Nat) (s : State) : State :=
  if s.stat.err then
    { s with stat := { s.stat with err := false } }.setSlotPending i false
  else
    ((s.setSh i (shadowOf (s.moAt i))).setRdy i true).setSlotPending i false

/-- IRQ_RX for slot `i`. -/
def execIrqRx (i : Nat) (s : State) : Outcome :=
  s.slotEvent i s.cfg.NRX (s.irqRxEnabled i) (irqRxEffect i)

/-! ## TRY_RECEIVE (R83) -/

/-- TRY_RECEIVE, step 1 for index `i`: one flag test. The last test, or the empty scan, returns NoMessage. -/
def microRecv1 (i : Nat) (s : State) : State :=
  if i < s.cfg.NRX then
    if s.rdyAt i then s.goto (.recvRead .id i Shadow.none)
    else if i + 1 < s.cfg.NRX then s.goto (.recv1 (i + 1))
    else s.ret .noMessage
  else s.ret .noMessage

/-- TRY_RECEIVE: the test of index 0. -/
def execTryReceive (s : State) : Outcome := s.issue s.needsInit (microRecv1 0)

/-- TRY_RECEIVE, steps 2 to 8: one field read each, in the order of R83. -/
def microRecvRead (field : RecvField) (i : Nat) (t : Shadow) (s : State) : State :=
  let e := s.shAt i
  match field with
  | .id => s.goto (.recvRead .ext i { t with id := e.id })
  | .ext => s.goto (.recvRead .dlc i { t with ext := e.ext })
  | .dlc => s.goto (.recvRead .w0 i { t with dlc := e.dlc })
  | .w0 => s.goto (.recvRead .w1 i { t with w := { t.w with w0 := e.w.w0 } })
  | .w1 => s.goto (.recvRead .w2 i { t with w := { t.w with w1 := e.w.w1 } })
  | .w2 => s.goto (.recvRead .w3 i { t with w := { t.w with w2 := e.w.w2 } })
  | .w3 => s.goto (.recv9 i { t with w := { t.w with w3 := e.w.w3 } })

/-- TRY_RECEIVE, step 9: clears the ready flag. -/
def microRecv9 (i : Nat) (t : Shadow) (s : State) : State := (s.setRdy i false).goto (.recv10 t)

/-- The frame built from the fields that were read (R67 (c)). -/
def frameOfShadow (t : Shadow) : Frame := frameOfFields t.id t.ext t.dlc t.w

/-- TRY_RECEIVE, step 10: returns the frame on `RES_FRAME`. -/
def microRecv10 (t : Shadow) (s : State) : State :=
  { s with rxOut := s.rxOut ++ [frameOfShadow t],
           ports := { s.ports with frame := frameOfShadow t } }.ret .ok

end Sys2Proof.Machine
end

