-- ==== Sys2Proof/Machine/ResetOp.lean ====
section
/-! DEFINITION. RESET (spec/70_reset_and_hazards.md R139): at any time, every piece of state takes its reset value,
the marks and the ghost lists included; the parameters are unchanged, and the data fields are drawn anew. -/

namespace Sys2Proof.Machine

/-- RESET. -/
def execReset (s : State) : Outcome := .next (State.afterReset s.cfg s.draws s.inputs)

end Sys2Proof.Machine
end

