-- ==== Sys2Proof/Machine/Transmit.lean ====
section
/-! DEFINITION. PRECHECK_HALT and TRY_SEND (spec/42_transmit.md R87, R89), as themselves and as parts of SEND and
DRAIN_ONE. -/

namespace Sys2Proof.Machine

/-! ## PRECHECK_HALT (R87) -/

/-- PRECHECK_HALT, step 1: samples the raw bus-off bit. -/
def microHalt1 (after : AfterHalt) (s : State) : State := s.goto (.halt2 s.stat.boff after)

/-- PRECHECK_HALT issued as itself. R88 has the check run only when a transmit attempt is about to be made; its own label
(R56) runs it alone, with no attempt after it (DESIGN CHOICE, assumption log 23). -/
def execPrecheckHalt (s : State) : Outcome := s.issue none (microHalt1 .stop)

/-- PRECHECK_HALT, step 2: clears the halt bit if the sampled bit was 1, then goes on to what follows. -/
def microHalt2 (b : Bool) (after : AfterHalt) (s : State) : State :=
  let s := if b then s.setHalt false else s
  match after with
  | .stop => s.ret .ok
  | .trySend f c => s.goto (.trySend1 f c)

/-! ## TRY_SEND (R89) -/

/-- TRY_SEND returns `r` to its caller (R71): SEND goes on with step 3, DRAIN_ONE with step 4. -/
def trySendReturn (f : Frame) (r : ResultCode) (c : Caller) (s : State) : State :=
  match c with
  | .direct => s.ret r
  | .send => s.goto (.send3 f r)
  | .drain poll => s.goto (.drain4 r poll)

/-- TRY_SEND, step 1: one snapshot of the pending bitmap, and the least free transmit slot. -/
def microTrySend1 (f : Frame) (c : Caller) (s : State) : State :=
  match s.freeTxSlot with
  | none => trySendReturn f .noFreeSlot c s
  | some i => s.goto (.trySend2 f i c)

/-- TRY_SEND issued as itself: its operand must be well-formed (R89, assumption log 10). R87 places PRECHECK_HALT before
every TRY_SEND, in its only callers; its own label (R56) makes the attempt alone, with no check before it (DESIGN CHOICE,
assumption log 23). -/
def execTrySend (f : Frame) (s : State) : Outcome := s.issue (frameRefusal f) (microTrySend1 f .direct)

/-- TRY_SEND, step 2: the issue. -/
def microTrySend2 (f : Frame) (i : Nat) (c : Caller) (s : State) : State :=
  s.issueXfer i (txImage f) (.trySend3 f 0 c)

/-- TRY_SEND, step 3: the wait. -/
def microTrySend3 (f : Frame) (seen : Nat) (c : Caller) (s : State) : State :=
  s.waitXfer seen (fun n => .trySend3 f n c) fun s => s.goto (.trySend4 f c)

/-- TRY_SEND, step 4: returns Ok. -/
def microTrySend4 (f : Frame) (c : Caller) (s : State) : State := trySendReturn f .ok c s

end Sys2Proof.Machine
end

