-- ==== Sys2Proof/Machine/TxQueue.lean ====
section
/-! DEFINITION. ENQUEUE, DRAIN_ONE, SEND and POLL (spec/43_txqueue.md R92 to R95). -/

namespace Sys2Proof.Machine

/-! ## ENQUEUE (R92) -/

/-- The ring index an appended frame is written to: `(Q.head + Q.count) mod QCAP` (R92). -/
def State.tailIndex (s : State) : Nat := (s.q.head + s.q.count) % s.cfg.QCAP

/-- ENQUEUE's one micro-step: rejected when the queue is full, else one ring entry and the count. -/
def microEnqueue (f : Frame) (s : State) : State :=
  if s.q.count = s.cfg.QCAP then s.ret .queueFull
  else { s with q := { s.q with ring := s.q.ring.set s.tailIndex f, count := s.q.count + 1 } }.ret .ok

/-- ENQUEUE issued as itself: its operand must be well-formed (R92, assumption log 10). SEND runs it only after an attempt
that found no free slot; its own label runs it alone (DESIGN CHOICE, assumption log 23). -/
def execEnqueue (f : Frame) (s : State) : Outcome := s.issue (frameRefusal f) (microEnqueue f)

/-! ## DRAIN_ONE (R93) -/

/-- DRAIN_ONE returns `r`: to the host if it was issued as itself, else to POLL's step 2. -/
def drainReturn (r : ResultCode) (poll : Bool) (s : State) : State :=
  if poll then s.goto .poll2 else s.ret r

/-- DRAIN_ONE, step 1: Empty, or peek at the oldest entry; PRECHECK_HALT and TRY_SEND follow. -/
def microDrain1 (poll : Bool) (s : State) : State :=
  if s.q.count = 0 then drainReturn .empty poll s
  else s.goto (.halt1 (.trySend (s.ringAt s.q.head) (.drain poll)))

/-- DRAIN_ONE issued as itself, outside POLL (DESIGN CHOICE, assumption log 23). -/
def execDrainOne (s : State) : Outcome := s.issue none (microDrain1 false)

/-- The queue after its oldest entry has left (R93 step 4). -/
def State.dropHead (s : State) : State :=
  { s with q := { s.q with head := (s.q.head + 1) % s.cfg.QCAP, count := s.q.count - 1 } }

/-- DRAIN_ONE, step 4: the head advances only if the transmit attempt succeeded. -/
def microDrain4 (r : ResultCode) (poll : Bool) (s : State) : State :=
  match r with
  | .ok => drainReturn .ok poll s.dropHead
  | _ => drainReturn .noFreeSlot poll s

/-! ## SEND (R94) -/

/-- SEND: its refusals, then the first micro-step of PRECHECK_HALT. -/
def execSend (f : Frame) (s : State) : Outcome :=
  s.issue (s.needsInit.or (frameRefusal f)) (microHalt1 (.trySend f .send))

/-- SEND, step 3: Ok if the frame is in a transmit slot, else on to step 4. -/
def microSend3 (f : Frame) (r : ResultCode) (s : State) : State :=
  match r with
  | .ok => s.ret .ok
  | _ => s.goto (.send4 f)

/-- SEND, step 4: returns what ENQUEUE returns. -/
def microSend4 (f : Frame) (s : State) : State := microEnqueue f s

/-! ## POLL (R95) -/

/-- POLL, step 1: DRAIN_ONE's first micro-step. -/
def execPoll (s : State) : Outcome := s.issue s.needsInit (microDrain1 true)

/-- POLL, step 2: returns Ok whatever DRAIN_ONE returned. -/
def microPoll2 (s : State) : State := s.ret .ok

end Sys2Proof.Machine
end

