-- ==== Sys2Proof/Machine/Dispatch.lean ====
section
/-! DEFINITION. The meaning of each operation of spec/30_encoding.md R55: one arm per constructor of `Instr`. -/

namespace Sys2Proof.Machine

def exec (i : Instr) (s : State) : Host.Outcome State Fault Refusal :=
  match i with
  | .init baud => Sys2Proof.Machine.execInit baud s
  | .registerFilter mask value extended => Sys2Proof.Machine.execRegisterFilter mask value extended s
  | .send frame => Sys2Proof.Machine.execSend frame s
  | .poll => Sys2Proof.Machine.execPoll s
  | .tryReceive => Sys2Proof.Machine.execTryReceive s
  | .rdCounters => Sys2Proof.Machine.execRdCounters s
  | .reserveReceiveSlot mask value extended => Sys2Proof.Machine.execReserveReceiveSlot mask value extended s
  | .xferWait target image => Sys2Proof.Machine.execXferWait target image s
  | .precheckHalt => Sys2Proof.Machine.execPrecheckHalt s
  | .trySend frame => Sys2Proof.Machine.execTrySend frame s
  | .enqueue frame => Sys2Proof.Machine.execEnqueue frame s
  | .drainOne => Sys2Proof.Machine.execDrainOne s
  | .irqRx slot => Sys2Proof.Machine.execIrqRx slot s
  | .irqStatus => Sys2Proof.Machine.execIrqStatus s
  | .envXferDone => Sys2Proof.Machine.execEnvXferDone s
  | .envRx slot frame => Sys2Proof.Machine.execEnvRx slot frame s
  | .envTxDone slot => Sys2Proof.Machine.execEnvTxDone slot s
  | .envEwarnOn => Sys2Proof.Machine.execEnvEwarnOn s
  | .envEwarnOff => Sys2Proof.Machine.execEnvEwarnOff s
  | .envBusoff lost ewarn => Sys2Proof.Machine.execEnvBusoff lost ewarn s
  | .envSilentHalt lost ewarn => Sys2Proof.Machine.execEnvSilentHalt lost ewarn s
  | .envRecovered => Sys2Proof.Machine.execEnvRecovered s
  | .envErrSet indicate => Sys2Proof.Machine.execEnvErrSet indicate s
  | .reset => Sys2Proof.Machine.execReset s

end Sys2Proof.Machine
end

