-- ==== Sys2Proof/Machine/Fetch.lean ====
section
/-! DEFINITION. Taking the next input: the block has no program counter and fetches no instructions
(spec/10_state.md R30, spec/20_memory.md R52). What stands here is how one step reads what the outside offers: a
command on the host command port, its code and its operand ports sampled (spec/30_encoding.md R57, R68), the label of a
step (R56, R62, R63), or leave for the foreground's next micro-step (R8). Every input has a step; none ends the run. -/

namespace Sys2Proof.Machine

/-- What a step is to do. -/
inductive Fetched where
  /-- the foreground's next micro-step -/
  | advance (s : State)
  /-- an operation -/
  | run (i : Instr) (s : State)
  /-- a command whose code the host command port does not accept (R68) -/
  | illegal (s : State)
  deriving DecidableEq, Repr

/-- The state in which a fetched operation runs: its input is consumed and its context is known. -/
def State.fetched (s : State) (rest : List Input) (ctx : Context) : State := { s with inputs := rest, issuer := ctx }

/-- The operation a command asks for (R56, R57): a host code with the operand ports it uses. Every other code is
illegal on the port (R68). -/
def commanded (code : Byte) (o : OperandPorts) : Option Instr :=
  match code.toNat with
  | 0x01 => some (.init o.baud)
  | 0x02 => some (.registerFilter o.mask o.value o.ext)
  | 0x03 => some (.send o.frame)
  | 0x04 => some .poll
  | 0x05 => some .tryReceive
  | 0x06 => some .rdCounters
  | _ => none

/-- A command on the host command port. -/
def fetchCommand (code : Byte) (o : OperandPorts) (s : State) : Fetched :=
  match commanded code o with
  | some i => .run i s
  | none => .illegal s

/-- The next input. With none offered the foreground goes on alone (assumption log 1). -/
def fetch (s : State) : Fetched :=
  match s.inputs with
  | [] => .advance s
  | .advance :: rest => .advance (s.fetched rest s.issuer)
  | .command ctx code o :: rest => fetchCommand code o (s.fetched rest ctx)
  | .label i :: rest => .run i (s.fetched rest .foreground)

/-! ## Offering an operation -/

/-- Operand ports with nothing on them. -/
def OperandPorts.zero : OperandPorts := { baud := ⟨0, 0⟩, mask := 0, value := 0, ext := false, frame := zeroFrame }

/-- The operand ports of a host operation. -/
def portsOf : Instr → OperandPorts
  | .init baud => { OperandPorts.zero with baud := baud }
  | .registerFilter mask value ext => { OperandPorts.zero with mask := mask, value := value, ext := ext }
  | .send frame => { OperandPorts.zero with frame := frame }
  | _ => OperandPorts.zero

/-- The input that offers an operation: a host operation as a command from the foreground, any other as its label. -/
def inputFor (i : Instr) : Input :=
  if i.isHost then .command .foreground i.opcode (portsOf i) else .label i

/-- The input that offers the operation of a byte sequence. An illegal code is put on the command port, which refuses it
(R68); bytes that are no operation otherwise offer nothing but the foreground's next micro-step. -/
def inputOf (bytes : List Byte) : Input :=
  match decode bytes with
  | .ok r => inputFor r.1
  | .error (.illegalCode code) => .command .foreground code OperandPorts.zero
  | .error _ => .advance

/-- `s` with a table word offered first. -/
def offerWord (s : State) (nbits w : Nat) : State := { s with inputs := inputOf (tableBytes nbits w) :: s.inputs }

end Sys2Proof.Machine
end

