-- ==== Sys2Proof/Machine/Foreground.lean ====
section
/-! DEFINITION. The foreground's next micro-step (spec/00_scope.md R8, spec/10_state.md R10, R30): the numbered step
that its position names, of the operation in progress. Idle or stalled it has none. Below it, two ways to run an
operation on: the foreground alone, and with a controller that completes each transfer as soon as it is waited for. -/

namespace Sys2Proof.Machine

/-- One micro-step of the foreground. -/
def fgStep (s : State) : State :=
  match s.fg with
  | .idle => s
  | .init2 baud => microInit2 baud s
  | .init3 bt => microInit3 bt s
  | .init4 => microInit4 s
  | .init5 => microInit5 s
  | .init6 => microInit6 s
  | .filter2 i mask value extended => microFilter2 i mask value extended s
  | .filter3 i mask value extended => microFilter3 i mask value extended s
  | .filter4 i seen => microFilter4 i seen s
  | .filter5 i => microFilter5 i s
  | .filter6 => microFilter6 s
  | .filter7 => microFilter7 s
  | .reserve2 i mask value extended => microReserve2 i mask value extended s
  | .reserve3 i seen => microReserve3 i seen s
  | .reserve4 i => microReserve4 i s
  | .xferWait seen => microXferWait seen s
  | .halt1 after => microHalt1 after s
  | .halt2 b after => microHalt2 b after s
  | .trySend1 f c => microTrySend1 f c s
  | .trySend2 f i c => microTrySend2 f i c s
  | .trySend3 f seen c => microTrySend3 f seen c s
  | .trySend4 f c => microTrySend4 f c s
  | .send3 f r => microSend3 f r s
  | .send4 f => microSend4 f s
  | .drain4 r poll => microDrain4 r poll s
  | .poll2 => microPoll2 s
  | .recv1 i => microRecv1 i s
  | .recvRead field i t => microRecvRead field i t s
  | .recv9 i t => microRecv9 i t s
  | .recv10 t => microRecv10 t s
  | .counters2 => microCounters2 s
  | .counters3 => microCounters3 s
  | .stalled => s

/-- The foreground is at the wait step of a transfer handshake. -/
def State.waiting (s : State) : Bool :=
  match s.fg with
  | .filter4 _ _ => true
  | .reserve3 _ _ => true
  | .xferWait _ => true
  | .trySend3 _ _ _ => true
  | _ => false

/-- `k` micro-steps of the foreground with no step of another agent between them. -/
def runFg : Nat → State → State
  | 0, s => s
  | k + 1, s => runFg k (fgStep s)

/-- One step of the schedule in which the controller completes a transfer as soon as the foreground waits for it and
no other agent moves. -/
def promptStep (s : State) : State := if s.waiting && s.xfer.busy then xferDoneEffect s else fgStep s

/-- `k` steps of that schedule. -/
def runPrompt : Nat → State → State
  | 0, s => s
  | k + 1, s => runPrompt k (promptStep s)

end Sys2Proof.Machine
end

