-- ==== Sys2Proof/Machine/Step.lean ====
section
/-! DEFINITION. One step of the block: the next input is taken, and the agent it names moves once
(spec/20_memory.md R49). -/

namespace Sys2Proof.Machine

/-- One step. -/
def step (s : State) : Host.Outcome State Fault Refusal :=
  match fetch s with
  | .advance s => .next (fgStep s)
  | .run i s => exec i s
  | .illegal s => .next (s.raiseRefuse .illegalOp)

/-- `s` with a table word offered where `step` takes its next input. -/
def State.withFetchWord (s : State) (nbits w : Nat) : State := offerWord s nbits w

end Sys2Proof.Machine
end

