-- ==== Sys2Proof/Safety.lean ====
section
/-! DEFINITION. What claims are stated with: quiescent states (spec/70_reset_and_hazards.md R142), runs and the
liveness assumptions (spec/45_controller_env.md R117), and the invariants of the block, gathered from the rules that
say what holds in every reachable state. -/

namespace Sys2Proof.Machine

/-! ## Situations statements start from -/

/-- The foreground issues the next operation and has none in progress (R10 (a), R134). -/
def State.free (s : State) : Prop := s.issuer = .foreground ∧ s.fg = .idle

/-- `free`, after INIT (R123). -/
def State.ready (s : State) : Prop := s.free ∧ s.inited = true

/-- Every transmit slot is pending (R89, R120). -/
def State.allTxPending (s : State) : Prop := ∀ j, s.cfg.NRX ≤ j → j < s.cfg.N → s.txPending j = true

/-- Slot `i` is the least transmit slot that is not pending (R89 step 1). -/
def State.leastFreeTx (s : State) (i : Nat) : Prop :=
  s.cfg.NRX ≤ i ∧ i < s.cfg.N ∧ s.txPending i = false ∧ ∀ j, s.cfg.NRX ≤ j → j < i → s.txPending j = true

/-- Slot `i` is the least receive slot not in use (R75 step 1). -/
def State.leastFreeRx (s : State) (i : Nat) : Prop :=
  i < s.cfg.NRX ∧ s.inuseAt i = false ∧ ∀ j, j < i → s.inuseAt j = true

/-- The software state the controller never touches (spec/45_controller_env.md, opening; R35), laid over `s`. -/
def State.withSoftware (s : State) (inuse rdy : List Bool) (sh : List Shadow) (q : Queue)
    (cnt : Counters) (irqEn inited : Bool) (fg : Fg) : State :=
  { s with inuse := inuse, rdy := rdy, sh := sh, q := q, cnt := cnt, irqEn := irqEn, inited := inited, fg := fg }

/-- Where TRY_RECEIVE stands once it has read `k` of the seven fields of shadow entry `i` into `t` (R83 steps 2 to 9). -/
def readPosition (i : Nat) (t : Shadow) : Nat → Fg
  | 0 => .recvRead .id i t
  | 1 => .recvRead .ext i t
  | 2 => .recvRead .dlc i t
  | 3 => .recvRead .w0 i t
  | 4 => .recvRead .w1 i t
  | 5 => .recvRead .w2 i t
  | 6 => .recvRead .w3 i t
  | _ => .recv9 i t

/-- The shadow entry that TRY_RECEIVE has read when a copy turned it from `old` into `new` after `k` of the seven field
reads (R149). -/
def tornShadow (k : Nat) (old new : Shadow) : Shadow :=
  { id := if 1 ≤ k then old.id else new.id
    ext := if 2 ≤ k then old.ext else new.ext
    dlc := if 3 ≤ k then old.dlc else new.dlc
    w := ⟨if 4 ≤ k then old.w.w0 else new.w.w0, if 5 ≤ k then old.w.w1 else new.w.w1,
      if 6 ≤ k then old.w.w2 else new.w.w2, if 7 ≤ k then old.w.w3 else new.w.w3⟩ }

/-! ## Quiescent states (R142) -/

/-- Some IRQ step is enabled (R128). -/
def State.irqPossible (s : State) : Bool :=
  s.irqStatusEnabled || (List.range s.cfg.NRX).any fun i => s.irqRxEnabled i

/-- A quiescent state (R142). -/
def State.quiescent (s : State) : Bool :=
  decide (s.fg = .idle) && !s.xfer.busy && !s.irqPossible &&
    !s.faults.counterOverflow && !s.faults.handshakeStall && s.refused.isNone

/-! ## Runs (R49) -/

/-- `s` with one more input offered first. -/
def State.offer (s : State) (e : Input) : State := { s with inputs := e :: s.inputs }

/-- One step under the input `e`. -/
def Takes (e : Input) (s t : State) : Prop := step (s.offer e) = .next t

/-- One step under some input: the free choice among the agents' steps (R128). -/
def Trans (s t : State) : Prop := ∃ e : Input, Takes e s t

/-- The states that some inputs lead to from a reset of a block with parameters `p`. -/
inductive Reachable (p : Params) : State → Prop where
  | start (n : Nat) : Reachable p (State.afterReset p n [])
  | step {s t : State} : Reachable p s → Trans s t → Reachable p t

/-- An infinite run: its states, and the inputs its steps take. -/
def IsRun (e : Nat → Input) (r : Nat → State) : Prop := ∀ n, Takes (e n) (r n) (r (n + 1))

/-! ## The end of a run (R142) -/

/-- The input issues a host operation. -/
def Input.issuesHost : Input → Bool
  | .advance => false
  | .command _ _ _ => true
  | .label i => i.isHost

/-- From step `n` on no host operation is issued: the host program is over. With the foreground idle its last operation
then counts as returned. R142 does not say whether an operation that RESET has abandoned without a result (R139), or one
that was refused before a RESET, has returned: here it has (DESIGN CHOICE, assumption log 22). -/
def HostDone (e : Nat → Input) (n : Nat) : Prop := ∀ m, n ≤ m → (e m).issuesHost = false

/-- A quiescent state in which no transmit slot is pending, or in which the claim allows pending transmissions. -/
def State.atRest (s : State) (pendingAllowed : Bool) : Bool :=
  s.quiescent && (pendingAllowed || (List.range s.cfg.N).all fun i => decide (i < s.cfg.NRX) || !s.txPending i)

/-- The run ends at step `n` (R142): at the first quiescent state after the last host operation has returned in which no
transmit slot is pending, unless the claim allows it. What counts as returned is `HostDone`'s choice (assumption log 22).
The definition says nothing about the bus, the queue or skipped indications. -/
def EndsAt (pendingAllowed : Bool) (e : Nat → Input) (r : Nat → State) (n : Nat) : Prop :=
  HostDone e n ∧ (r n).atRest pendingAllowed = true ∧
    ∀ k, k < n → HostDone e k → (r k).atRest pendingAllowed = false

/-! ## Liveness assumptions (R117) -/

/-- `A_XFER_LIVE` (R117). -/
def AXferLive (r : Nat → State) : Prop :=
  ∀ n, (r n).xfer.busy = true → ∃ m, n ≤ m ∧ (r m).xfer.busy = false

/-- `A_TX_LIVE` (R117): a slot that stays pending on a running controller is in the end transmitted or abandoned. -/
def ATxLive (r : Nat → State) : Prop :=
  ∀ n i, ∃ m, n ≤ m ∧ ((r m).txPending i = false ∨ (r m).onBus = false)

/-- `A_IRQ_LIVE` (R117): an indication that stays pending while the sources are enabled and the gate is open is in
the end handled. -/
def AIrqLive (r : Nat → State) : Prop :=
  (∀ n i, ∃ m, n ≤ m ∧ ((r m).slotPending i = false ∨ (r m).ctrl.ie = false ∨ (r m).irqEn = false)) ∧
  ∀ n, ∃ m, n ≤ m ∧ ((r m).intpnd.status = false ∨ (r m).ctrl.ie = false ∨ (r m).irqEn = false)

/-- `A_RECOVER_LIVE` (R117). -/
def ARecoverLive (r : Nat → State) : Prop :=
  ∀ n, ∃ m, n ≤ m ∧ ((r m).stat.boff = false ∨ (r m).ctrl.init = true)

/-! ## Invariants -/

/-- The storage form (R11, R14 to R16, R20, R25): every array has exactly the entries the parameters give it, so
that equal contents are equal data. -/
abbrev Memory.wf (s : State) : Prop :=
  s.mo.length = s.cfg.N ∧ s.inuse.length = s.cfg.NRX ∧ s.rdy.length = s.cfg.NRX ∧ s.sh.length = s.cfg.NRX ∧
    s.intpnd.slot.length = s.cfg.NRX ∧ s.q.ring.length = s.cfg.QCAP

/-- The queue (R20, R21): the index and the count are in range, and every valid entry is a well-formed frame
(R89). -/
def QueueOk (s : State) : Prop :=
  s.q.head < s.cfg.QCAP ∧ s.q.count ≤ s.cfg.QCAP ∧
    ∀ k, k < s.q.count → frameOk (s.ringAt ((s.q.head + k) % s.cfg.QCAP)) = true

/-- The counters fit their width (R22). -/
def CountersOk (s : State) : Prop := s.cnt.boff ≤ ones s.cfg.CNTW ∧ s.cnt.ewarn ≤ ones s.cfg.CNTW

/-- The slots (R12, R14, R17): an armed slot is a receive slot, a pending slot is a transmit slot, each with the
direction of its region, and a slot in use is armed. -/
def SlotsOk (s : State) : Prop :=
  (∀ i, (s.moAt i).armed = true → i < s.cfg.NRX ∧ (s.moAt i).dir = false) ∧
  (∀ i, (s.moAt i).txrqst = true → s.cfg.NRX ≤ i ∧ (s.moAt i).dir = true) ∧
  ∀ i, s.inuseAt i = true → (s.moAt i).armed = true

/-- The programming order lists each pending slot once, and no other (R107). -/
def TxSeqOk (s : State) : Prop := s.txSeq.Nodup ∧ ∀ i, i ∈ s.txSeq ↔ s.txPending i = true

/-- A slot a transfer may program: a receive slot that is not reserved (R76), a transmit slot that is not pending (R89
corner case (d)). -/
def State.slotFree (s : State) (target : Nat) : XferKind → Prop
  | .filter => s.inuseAt target = false
  | .txframe => s.txPending target = false

/-- The transfer port (R28, R74): while it is busy the foreground waits for it, or has given it up as stalled, and it
holds a target in the region of its kind, a slot that is free. -/
def XferPortOk (s : State) : Prop :=
  s.xfer.busy = true →
    (s.waiting = true ∨ s.fg = .stalled) ∧ s.xferOk s.xfer.target s.xfer.image = true ∧
      s.slotFree s.xfer.target s.xfer.image.kind

/-- The waits and marks of a reservation of slot `i` (R75, R77): its FILTER transfer is pending, or has armed it. -/
def ReservationOk (s : State) (i : Nat) : Prop :=
  i < s.cfg.NRX ∧
    if s.xfer.busy = true then s.xfer.target = i ∧ s.xfer.image.kind = .filter else (s.moAt i).armed = true

/-- A transmit attempt's operand is well-formed, and a drain holds on to a queued frame (R89, R93). -/
def AttemptOk (s : State) (f : Frame) (c : Caller) : Prop :=
  frameOk f = true ∧ match c with
    | .drain _ => 0 < s.q.count
    | _ => True

/-- What follows a halt check (R87). -/
def AfterHaltOk (s : State) : AfterHalt → Prop
  | .stop => True
  | .trySend f c => AttemptOk s f c

/-- The foreground's position and its local values fit the state (R30). -/
def FgOk (s : State) : Prop :=
  match s.fg with
  | .filter2 i _ value extended => i < s.cfg.NRX ∧ fitsIdent value extended = true ∧ s.inuseAt i = false
  | .filter3 i _ value extended => i < s.cfg.NRX ∧ fitsIdent value extended = true ∧ s.inuseAt i = false
  | .filter4 i _ => ReservationOk s i
  | .filter5 i => i < s.cfg.NRX ∧ (s.moAt i).armed = true
  | .reserve2 i _ value extended => i < s.cfg.NRX ∧ fitsIdent value extended = true ∧ s.inuseAt i = false
  | .reserve3 i _ => ReservationOk s i
  | .reserve4 i => i < s.cfg.NRX ∧ (s.moAt i).armed = true
  | .halt1 after => AfterHaltOk s after
  | .halt2 _ after => AfterHaltOk s after
  | .trySend1 f c => AttemptOk s f c
  | .trySend2 f i c => AttemptOk s f c ∧ s.cfg.NRX ≤ i ∧ i < s.cfg.N ∧ s.txPending i = false
  | .trySend3 f _ c => AttemptOk s f c
  | .trySend4 f c => AttemptOk s f c
  | .send3 f _ => frameOk f = true
  | .send4 f => frameOk f = true
  | .drain4 _ _ => 0 < s.q.count
  | .recvRead _ i _ => i < s.cfg.NRX
  | .recv9 i _ => i < s.cfg.NRX
  | _ => True

/-- The foreground is between steps 2 and 6 of REGISTER_FILTER (R132, R157). -/
def State.masked (s : State) : Bool :=
  match s.fg with
  | .filter3 _ _ _ _ => true
  | .filter4 _ _ => true
  | .filter5 _ => true
  | .filter6 => true
  | _ => false

/-- The interrupt gate (R157): closed exactly in the masked interval of REGISTER_FILTER, or for good by a stall
there. -/
def GateOk (s : State) : Prop :=
  (s.masked = true → s.irqEn = false) ∧ (s.irqEn = false → s.masked = true ∨ s.fg = .stalled)

/-- INIT is in progress. -/
def State.initialising (s : State) : Bool :=
  match s.fg with
  | .init2 _ => true
  | .init3 _ => true
  | .init4 => true
  | .init5 => true
  | .init6 => true
  | _ => false

/-- INIT has released the halt. -/
def State.released (s : State) : Bool := s.inited || decide (s.fg = .init5) || decide (s.fg = .init6)

/-- Initialisation, interrupt enables and the halt bit (R73, R113, spec/95_test_vectors.md note on M5): INIT runs
only before it has completed; a block that is initialised has its sources enabled; with the sources disabled nothing
is pending; and once INIT has released the halt, the halt bit is set only together with bus-off. -/
def HaltOk (s : State) : Prop :=
  (s.initialising = true → s.inited = false) ∧
  (s.inited = true → s.ctrl.ie = true) ∧ (s.fg = .init6 → s.ctrl.ie = true) ∧
  (s.ctrl.ie = false → s.intpnd.status = false ∧ ∀ i, s.slotPending i = false) ∧
  (s.released = true → s.ctrl.init = true → s.stat.boff = true)

/-- The invariant of the block. -/
structure BlockInv (s : State) : Prop where
  params : s.cfg.ok = true
  storage : Memory.wf s
  queue : QueueOk s
  counters : CountersOk s
  slots : SlotsOk s
  txSeq : TxSeqOk s
  port : XferPortOk s
  position : FgOk s
  gate : GateOk s
  halt : HaltOk s

/-- The queued frames, oldest first (R21 (b)). -/
def State.queued (s : State) : List Frame :=
  (List.range s.q.count).map fun k => s.ringAt ((s.q.head + k) % s.cfg.QCAP)

/-- Every slot below `i` is in use. -/
def State.usedBelow (s : State) (i : Nat) : Prop := ∀ j, j < i → s.inuseAt j = true

/-- A reservation of slot `i` is past its issue and has not marked the slot yet (R75, R77, R160), or has stalled. -/
def State.reservingSlot (s : State) (i : Nat) : Prop :=
  match s.fg with
  | .filter4 j _ => i = j
  | .filter5 j => i = j
  | .reserve3 j _ => i = j
  | .reserve4 j => i = j
  | .stalled => True
  | _ => False

/-- Receive slots are handed out in increasing index order (R75 corner case (b)), each once (R76): the slots in use are the
first ones, a reservation in progress is of the next one, an armed slot is in use or is about to be marked (R160), and a
FILTER transfer is of a slot that is not armed and that such a reservation waits for. -/
structure OrderInv (s : State) : Prop where
  prefixed : ∀ i, s.inuseAt i = true → s.usedBelow i
  reserving : match s.fg with
    | .filter2 i _ _ _ => s.usedBelow i
    | .filter3 i _ _ _ => s.usedBelow i
    | .filter4 i _ => s.usedBelow i
    | .filter5 i => s.usedBelow i
    | .reserve2 i _ _ _ => s.usedBelow i
    | .reserve3 i _ => s.usedBelow i
    | .reserve4 i => s.usedBelow i
    | _ => True
  armed : ∀ i, (s.moAt i).armed = true → s.inuseAt i = true ∨ s.reservingSlot i
  transfer : s.xfer.busy = true → s.xfer.image.kind = .filter →
    (s.moAt s.xfer.target).armed = false ∧ s.reservingSlot s.xfer.target

/-- A length code a received frame can have (R83 corner case (c)). -/
def dlcOk (d : Dlc) : Prop := d.toNat ≤ 8

/-- The local values of a TRY_RECEIVE in progress: the slot it reads is still flagged, and a length it has read is
in range. -/
def ReadingOk (s : State) : Prop :=
  match s.fg with
  | .recvRead field i t => s.rdyAt i = true ∧ (field ≠ .id ∧ field ≠ .ext ∧ field ≠ .dlc → dlcOk t.dlc)
  | .recv9 _ t => dlcOk t.dlc
  | .recv10 t => dlcOk t.dlc
  | _ => True

/-- Lengths along the receive path (R83 corner case (c), R106): every slot with a pending indication, every flagged
shadow entry and every delivered frame has a length of at most 8, even a torn one (R149). -/
structure LengthInv (s : State) : Prop where
  pending : ∀ i, s.slotPending i = true → dlcOk (s.moAt i).dlc
  ready : ∀ i, s.rdyAt i = true → dlcOk (s.shAt i).dlc
  reading : ReadingOk s
  delivered : ∀ f ∈ s.rxOut, lengthOk f = true

end Sys2Proof.Machine
end

