-- ==== Sys2Proof/Certificates/Slice0/Obligations.lean ====
section
/-! DEFINITION. The statements for the provers. Each docstring names the rule of spec/ that the statement formalises;
"the foreground alone" (`runFg`) and "a prompt controller" (`runPrompt`) are the two schedules of
`Machine/Foreground.lean`. -/

open Sys2Proof Sys2Proof.Machine

/-! ## Encoding -/

/-- Sample words of every class of R56, written out from R58, R62, R64 and the model's serial order (log 5). -/
def Obligations.DecodeReadsSampleWords : Prop :=
  decode [0x01, 0x05, 0x00, 0x00, 0x00, 0x01, 0x23, 0x00, 0x00] = .ok (.init ⟨5, 0x2301⟩, []) ∧
  decode [0x02, 0xFF, 0x07, 0x00, 0x00, 0x23, 0x01, 0x00, 0x00, 0x00] = .ok (.registerFilter 0x7FF 0x123 false, []) ∧
  decode [0x03, 0x23, 0x01, 0x00, 0x00, 0xAA, 0xBB, 0, 0, 0, 0, 0, 0, 0x02, 0x00] =
    .ok (.send ⟨0x123, ⟨0xAA, 0xBB, 0, 0, 0, 0, 0, 0⟩, 2, false⟩, []) ∧
  decode [0x12, 0x03, 0x00, 0x21, 0x03, 0x00, 0xC0, 0, 0, 0, 0, 0x33, 0x00, 0x01, 0x02, 0x03, 0x00, 0, 0, 0, 0] =
    .ok (.xferWait 3 (.txframe 0x321 false 3 ⟨0x0201, 0x0003, 0, 0⟩), []) ∧
  decode [0x21, 0x13, 0x00] = .ok (.irqRx 19, []) ∧
  decode [0x33, 0x03, 0x00] = .ok (.envTxDone 3, []) ∧
  decode [0x36, 0x01, 0x01, 0x00, 0x02, 0x00] = .ok (.envBusoff [2] true, []) ∧
  decode [0x41] = .ok (.reset, [])

/-- Decoding and encoding agree on every well-formed operation, with every operand (R56, R58, R62 to R64). -/
def Obligations.DecodeInvertsEncode : Prop :=
  ∀ (p : Params) (i : Instr) (rest : List Byte), i.wellFormed p = true →
    decode (encode i ++ rest) = .ok (i, rest)

/-- The frame record of R58: its 112 bits field by field, and its ignored bits on input. -/
def Obligations.FrameRecordFieldsStandWhereStated : Prop :=
  ∀ f : Frame,
    frameRecord f = f.id.toNat + 2 ^ 32 * f.payload.b0.toNat + 2 ^ 40 * f.payload.b1.toNat +
        2 ^ 48 * f.payload.b2.toNat + 2 ^ 56 * f.payload.b3.toNat + 2 ^ 64 * f.payload.b4.toNat +
        2 ^ 72 * f.payload.b5.toNat + 2 ^ 80 * f.payload.b6.toNat + 2 ^ 88 * f.payload.b7.toNat +
        2 ^ 96 * f.len.toNat + 2 ^ 104 * f.ext.toNat ∧
    ∀ (tag : Byte) (rest : List Byte),
      readFrame (writeWord f.id ++ writePayload f.payload ++ [f.len, tag] ++ rest) =
        .ok ({ f with ext := tag.getLsbD 0 }, rest)

/-- R68: on the host command port a code other than 0x01 to 0x06 sets the REFUSED mark and changes no other state,
whatever its operand ports hold. -/
def Obligations.CommandPortRefusesOtherCodes : Prop :=
  ∀ (s : State) (ctx : Context) (code : Byte) (o : OperandPorts) (rest : List Input),
    s.inputs = .command ctx code o :: rest → ¬ (1 ≤ code.toNat ∧ code.toNat ≤ 6) →
    step s = .next { s with inputs := rest, issuer := ctx, refused := some .illegalOp }

/-- One step runs the decoded operation, or the foreground's next micro-step (R49; the inputs are log 1's): the bytes of
an operation, a word of the opcode table, each code of the host command port with its operand ports (R57), the label of a
step, leave to go on, and nothing offered. -/
def Obligations.StepRunsTheDecodedOperation : Prop :=
  (∀ (s : State) (bytes more : List Byte) (rest : List Input) (i : Instr),
    s.inputs = inputOf bytes :: rest → decode bytes = .ok (i, more) →
    step s = exec i { s with inputs := rest, issuer := .foreground }) ∧
  (∀ (s : State) (nbits w : Nat) (i : Instr), decodeTableWord nbits w = some i →
    step (s.withFetchWord nbits w) = exec i { s with issuer := .foreground }) ∧
  (∀ (s : State) (ctx : Context) (code : Byte) (o : OperandPorts) (rest : List Input),
    s.inputs = .command ctx code o :: rest → let t := { s with inputs := rest, issuer := ctx }
    (code = 0x01#8 → step s = exec (.init o.baud) t) ∧
    (code = 0x02#8 → step s = exec (.registerFilter o.mask o.value o.ext) t) ∧
    (code = 0x03#8 → step s = exec (.send o.frame) t) ∧
    (code = 0x04#8 → step s = exec .poll t) ∧
    (code = 0x05#8 → step s = exec .tryReceive t) ∧
    (code = 0x06#8 → step s = exec .rdCounters t)) ∧
  (∀ (s : State) (i : Instr) (rest : List Input), s.inputs = .label i :: rest →
    step s = exec i { s with inputs := rest, issuer := .foreground }) ∧
  (∀ (s : State) (rest : List Input), s.inputs = .advance :: rest → step s = .next (fgStep { s with inputs := rest })) ∧
  ∀ s : State, s.inputs = [] → step s = .next (fgStep s)

/-! ## Payload packing -/

/-- R39: `w[k][7:0] = payload[2k]` and `w[k][15:8] = payload[2k+1]`. -/
def Obligations.PackingPlacesBytesLittleEndian : Prop :=
  ∀ p : Payload,
    (pack p).w0 = (p.b1.setWidth 16 <<< 8) ||| p.b0.setWidth 16 ∧
    (pack p).w1 = (p.b3.setWidth 16 <<< 8) ||| p.b2.setWidth 16 ∧
    (pack p).w2 = (p.b5.setWidth 16 <<< 8) ||| p.b4.setWidth 16 ∧
    (pack p).w3 = (p.b7.setWidth 16 <<< 8) ||| p.b6.setWidth 16 ∧
    (pack p).w0.extractLsb' 0 8 = p.b0 ∧ (pack p).w0.extractLsb' 8 8 = p.b1 ∧
    (pack p).w1.extractLsb' 0 8 = p.b2 ∧ (pack p).w1.extractLsb' 8 8 = p.b3 ∧
    (pack p).w2.extractLsb' 0 8 = p.b4 ∧ (pack p).w2.extractLsb' 8 8 = p.b5 ∧
    (pack p).w3.extractLsb' 0 8 = p.b6 ∧ (pack p).w3.extractLsb' 8 8 = p.b7

/-- R40: the byte lane each payload byte is taken from; unpacking inverts packing, and packing inverts
unpacking. -/
def Obligations.UnpackingInvertsPacking : Prop :=
  (∀ w : DataWords, unpack w =
    ⟨w.w0.extractLsb' 0 8, w.w0.extractLsb' 8 8, w.w1.extractLsb' 0 8, w.w1.extractLsb' 8 8,
      w.w2.extractLsb' 0 8, w.w2.extractLsb' 8 8, w.w3.extractLsb' 0 8, w.w3.extractLsb' 8 8⟩) ∧
  (∀ p : Payload, unpack (pack p) = p) ∧ ∀ w : DataWords, pack (unpack w) = w

/-! ## Refusals -/

/-- The preconditions of the host operations (R69, R73, R77, R83, R94, R95, R102, R123, R134): the mark is set with
the reason and nothing else changes. The order of the context checks is the model's choice (log 10). -/
def Obligations.HostOperationsAreRefusedAsListed : Prop :=
  (∀ (i : Instr) (s : State), i.isHost = true → s.issuer = .interrupt →
    exec i s = .next { s with refused := some .sendFromIrq }) ∧
  (∀ (i : Instr) (s : State), i.isHost = true → s.issuer = .foreground → s.fg ≠ .idle →
    exec i s = .next { s with refused := some .overlap }) ∧
  (∀ (b : Baud) (s : State), s.free → s.inited = true →
    exec (.init b) s = .next { s with refused := some .initTwice }) ∧
  (∀ (i : Instr) (s : State), i.isHost = true → s.free → s.inited = false → (∀ b, i ≠ .init b) → i ≠ .rdCounters →
    exec i s = .next { s with refused := some .notInitialised }) ∧
  (∀ (f : Frame) (s : State), s.ready → 8 < f.len.toNat →
    exec (.send f) s = .next { s with refused := some .badLength }) ∧
  (∀ (f : Frame) (s : State), s.ready → f.len.toNat ≤ 8 → 2 ^ (if f.ext then 29 else 11) ≤ f.id.toNat →
    exec (.send f) s = .next { s with refused := some .badIdentifier }) ∧
  ∀ (mask value : Word) (extended : Bool) (s : State), s.ready → 2 ^ (if extended then 29 else 11) ≤ value.toNat →
    exec (.registerFilter mask value extended) s = .next { s with refused := some .badFilterValue }

/-! ## Initialisation, handshake, reservation -/

/-- R73: the six micro-steps of INIT and the state after each, the window between steps 4 and 5 among them, that no IRQ
step can occur before step 5 if none could at its start, and the refusal of a second INIT. -/
def Obligations.InitWritesInOrderAndCompletes : Prop :=
  (∀ (b : Baud) (s : State), s.free → s.inited = true →
    exec (.init b) s = .next { s with refused := some .initTwice }) ∧
  ∀ (b : Baud) (s : State), s.free → s.inited = false →
    ∃ t, exec (.init b) s = .next t ∧
      (s.ctrl.ie = false → ∀ k, k ≤ 3 → (runFg k t).irqPossible = false) ∧
      t = { s with ctrl := { s.ctrl with init := true }, ports := { s.ports with code := none }, fg := .init2 b } ∧
      runFg 1 t = { t with clkdiv := b.clkdiv, fg := .init3 b.bt } ∧
      runFg 2 t = { t with clkdiv := b.clkdiv, bt := b.bt, fg := .init4 } ∧
      runFg 3 t = { t with ctrl := { s.ctrl with init := false }, clkdiv := b.clkdiv, bt := b.bt, fg := .init5 } ∧
      runFg 4 t = { t with ctrl := { init := false, ie := true }, clkdiv := b.clkdiv, bt := b.bt, fg := .init6 } ∧
      runFg 5 t = { s with
        ctrl := { init := false, ie := true }, clkdiv := b.clkdiv, bt := b.bt, inited := true
        ports := { s.ports with code := some .ok }, fg := .idle }

/-- R77 with a prompt controller: REGISTER_FILTER takes the least slot not in use, closes the gate, has the filter
programmed, marks the slot, opens the gate and returns Ok; nothing else changes. -/
def Obligations.RegisterFilterProgramsLeastFreeSlot : Prop :=
  ∀ (mask value : Word) (extended : Bool) (s : State) (i : Nat), s.ready → s.xfer.busy = false →
    value.toNat < 2 ^ (if extended then 29 else 11) → s.leastFreeRx i →
    ∃ t, exec (.registerFilter mask value extended) s = .next t ∧
      (runPrompt 1 t).irqEn = false ∧
      (runPrompt 2 t).xfer = ⟨true, i, .filter (value.setWidth 29) (mask.setWidth 29) extended⟩ ∧
      runPrompt 7 t = { s with
        mo := s.mo.set i { s.moAt i with
          id := value.setWidth 29, mask := mask.setWidth 29, xtd := extended, dir := false, txrqst := false, armed := true }
        inuse := s.inuse.set i true
        xfer := ⟨false, i, .filter (value.setWidth 29) (mask.setWidth 29) extended⟩
        irqEn := true
        ports := { s.ports with code := some .ok }
        fg := .idle }

/-- R75 with a prompt controller: RESERVE_RECEIVE_SLOT, which returns `SlotId(i)` (R61). -/
def Obligations.ReserveReceiveSlotReturnsLeastFreeSlot : Prop :=
  ∀ (mask value : Word) (extended : Bool) (s : State) (i : Nat), s.free → s.xfer.busy = false →
    value.toNat < 2 ^ (if extended then 29 else 11) → s.leastFreeRx i →
    ∃ t, exec (.reserveReceiveSlot mask value extended) s = .next t ∧
      runPrompt 4 t = { s with
        mo := s.mo.set i { s.moAt i with
          id := value.setWidth 29, mask := mask.setWidth 29, xtd := extended, dir := false, txrqst := false, armed := true }
        inuse := s.inuse.set i true
        xfer := ⟨false, i, .filter (value.setWidth 29) (mask.setWidth 29) extended⟩
        ports := { s.ports with code := some .ok, slot := i }
        fg := .idle }

/-- R75, R77, R78, R120: with every receive slot in use a registration returns NoFreeSlot and changes nothing. -/
def Obligations.ReservationFailsWhenAllInUse : Prop :=
  ∀ (mask value : Word) (extended : Bool) (s : State),
    value.toNat < 2 ^ (if extended then 29 else 11) → (∀ j, j < s.cfg.NRX → s.inuseAt j = true) →
    (s.ready → exec (.registerFilter mask value extended) s =
      .next { s with ports := { s.ports with code := some .noFreeSlot }, fg := .idle }) ∧
    (s.free → exec (.reserveReceiveSlot mask value extended) s =
      .next { s with ports := { s.ports with code := some .noFreeSlot }, fg := .idle })

/-- R74: with the operands its callers give it (R71 (f)), the image of a checked operand and the slot that the scan of
RESERVE_RECEIVE_SLOT or of TRY_SEND takes, XFER_WAIT stages them and sets `busy`, and its wait ends once the controller has
completed the transfer. The issue and the wait are micro-steps of the caller, whose last step follows: a FILTER image ends
with the slot marked (R75 step 4), after a TXFRAME image nothing more is written (deduced, log 21). With other operands,
issued as itself, it has no step: no other path moves a frame (R2) and no operation changes a programmed filter (R76); that
its label then changes nothing is the model's choice (logs 3, 21). -/
def Obligations.XferWaitStagesAndEnds : Prop :=
  (∀ (target : Nat) (image : XferImage) (s : State), s.free → s.xfer.busy = false → target < s.cfg.N →
    imageOk image = true → (image.kind = .filter → s.leastFreeRx target) → (image.kind = .txframe → s.leastFreeTx target) →
    ∃ t, exec (.xferWait target image) s = .next t ∧
      t = { s with xfer := ⟨true, target, image⟩, ports := { s.ports with code := none }, fg := t.fg } ∧
      (image.kind = .txframe → t.fg = .xferWait 0 ∧
        runPrompt 2 t = { xferDoneEffect t with ports := { s.ports with code := some .ok }, fg := .idle }) ∧
      (image.kind = .filter → t.fg = .reserve3 target 0 ∧
        runPrompt 2 t = { xferDoneEffect t with fg := .reserve4 target } ∧
        runPrompt 3 t = { xferDoneEffect t with
          inuse := s.inuse.set target true
          ports := { s.ports with code := some .ok, slot := target }
          fg := .idle }) ∧
      (s.cfg.ceiling = none → ∀ k, runFg k t = t)) ∧
  ∀ (target : Nat) (image : XferImage) (s : State), target < s.cfg.N →
    ¬ (imageOk image = true ∧ (image.kind = .filter → s.leastFreeRx target) ∧
      (image.kind = .txframe → s.leastFreeTx target)) →
    exec (.xferWait target image) s = .next s

/-- R74, R124, R125: at every wait, a busy read holds the foreground where there is no ceiling; with a ceiling an earlier
read adds one to the count of busy reads and changes nothing else, and the read that reaches the ceiling raises
HandshakeStall, after which the foreground takes no step. -/
def Obligations.WaitHoldsOrStalls : Prop :=
  ∀ s : State, s.waiting = true → s.xfer.busy = true →
    (s.cfg.ceiling = none → fgStep s = s) ∧
    ∀ c seen, s.cfg.ceiling = some c →
      ((s.fg = .xferWait seen ∨ (∃ i, s.fg = .filter4 i seen) ∨ (∃ i, s.fg = .reserve3 i seen) ∨
          ∃ f k, s.fg = .trySend3 f seen k) → c ≤ seen + 1 →
        fgStep s = { s with faults := { s.faults with handshakeStall := true }, fg := .stalled } ∧
          ∀ k, runFg k (fgStep s) = fgStep s) ∧
      (seen + 1 < c →
        (s.fg = .xferWait seen → fgStep s = { s with fg := .xferWait (seen + 1) }) ∧
        (∀ i, s.fg = .filter4 i seen → fgStep s = { s with fg := .filter4 i (seen + 1) }) ∧
        (∀ i, s.fg = .reserve3 i seen → fgStep s = { s with fg := .reserve3 i (seen + 1) }) ∧
        ∀ f k, s.fg = .trySend3 f seen k → fgStep s = { s with fg := .trySend3 f (seen + 1) k })

/-- R132: between steps 2 and 6 of REGISTER_FILTER no IRQ step occurs. That an IRQ label offered there changes nothing is
the model's choice (log 3). -/
def Obligations.MaskedIntervalExcludesInterrupts : Prop :=
  ∀ s : State, BlockInv s → s.masked = true →
    exec .irqStatus s = .next s ∧ ∀ i, i < s.cfg.NRX → exec (.irqRx i) s = .next s

/-! ## Receive path -/

/-- R81: an enabled IRQ_RX copies the slot, sets the ready flag and consumes the indication, or, with an error
flagged, clears the flag and only consumes the indication. -/
def Obligations.IrqRxCopiesOrSkips : Prop :=
  ∀ (i : Nat) (s : State), i < s.cfg.NRX → s.irqRxEnabled i = true →
    exec (.irqRx i) s = .next
      (if s.stat.err then { s with
        stat := { s.stat with err := false }
        intpnd := { s.intpnd with slot := s.intpnd.slot.set i false } }
      else { s with
        sh := s.sh.set i ⟨(s.moAt i).id, (s.moAt i).xtd, (s.moAt i).dlc, (s.moAt i).w⟩
        rdy := s.rdy.set i true
        intpnd := { s.intpnd with slot := s.intpnd.slot.set i false } })

/-- R128, R129: when an IRQ step is enabled. That the label of an IRQ step that is not enabled changes nothing is the
model's choice (log 3). -/
def Obligations.IrqGatesAreAsStated : Prop :=
  ∀ s : State,
    (∀ i, s.irqRxEnabled i = true ↔
      s.ctrl.ie = true ∧ s.irqEn = true ∧ s.slotPending i = true ∧ s.refused = none ∧
        (s.cfg.irqOrder = .statusFirstAscending →
          s.intpnd.status = false ∧ ∀ j, j < i → s.slotPending j = false)) ∧
    (s.irqStatusEnabled = true ↔
      s.ctrl.ie = true ∧ s.irqEn = true ∧ s.intpnd.status = true ∧ s.refused = none ∧
        s.faults.counterOverflow = false) ∧
    (∀ i, i < s.cfg.NRX → s.irqRxEnabled i = false → exec (.irqRx i) s = .next s) ∧
    (s.irqStatusEnabled = false → exec .irqStatus s = .next s)

/-- R82: whatever slot, shadow entry and flags held before, once a frame has been stored in slot `i` and its
indication handled without an error flag, the shadow entry holds that frame and the flag is set. -/
def Obligations.LatestFrameReachesShadow : Prop :=
  ∀ (s t u : State) (i : Nat) (f : Frame), Memory.wf s → s.cfg.NRX ≤ s.cfg.N → s.rxEnabled i f = true →
    exec (.envRx i f) s = .next t → t.irqRxEnabled i = true → t.stat.err = false → exec (.irqRx i) t = .next u →
    frameOfShadow (u.shAt i) = f ∧ u.rdyAt i = true ∧ u.slotPending i = false ∧
      ∀ j, j ≠ i → u.shAt j = s.shAt j ∧ u.rdyAt j = s.rdyAt j

/-- R83, R84: the foreground alone, TRY_RECEIVE returns the frame of the least flagged slot, clears that flag and
changes nothing else. -/
def Obligations.TryReceiveReturnsLeastReady : Prop :=
  ∀ (s : State) (i : Nat), s.ready → i < s.cfg.NRX → s.rdyAt i = true → (∀ j, j < i → s.rdyAt j = false) →
    ∃ t, exec .tryReceive s = .next t ∧
      runFg (i + 9) t = { s with
        rdy := s.rdy.set i false
        rxOut := s.rxOut ++ [frameOfShadow (s.shAt i)]
        ports := { s.ports with code := some .ok, frame := frameOfShadow (s.shAt i) }
        fg := .idle }

/-- R83: with no flag set TRY_RECEIVE returns NoMessage and changes nothing. -/
def Obligations.TryReceiveFindsNothing : Prop :=
  ∀ s : State, s.ready → (∀ j, j < s.cfg.NRX → s.rdyAt j = false) →
    ∃ t, exec .tryReceive s = .next t ∧
      runFg (s.cfg.NRX - 1) t = { s with ports := { s.ports with code := some .noMessage }, fg := .idle }

/-- R149: an IRQ_RX copy of slot `i` while TRY_RECEIVE reads shadow entry `i`, after `k` of its seven field reads, whatever
`k` is. The `k` fields read before the copy come from the old frame and the others from the new one: after all seven the
frame returned is intact. The flag that the copy set is lost in every case. First from any local values of the reads, then
for a TRY_RECEIVE from its start, with everything that changes. -/
def Obligations.CopyDuringReadTearsFrame : Prop :=
  (∀ (s u : State) (i k : Nat) (t : Shadow), Memory.wf s → k ≤ 7 → s.fg = readPosition i t k → i < s.cfg.NRX →
    s.irqRxEnabled i = true → s.stat.err = false → exec (.irqRx i) s = .next u →
    (runFg (9 - k) u).ports.frame = frameOfShadow (tornShadow k t (shadowOf (s.moAt i))) ∧
      (runFg (9 - k) u).ports.code = some .ok ∧ (runFg (9 - k) u).rdyAt i = false) ∧
  ∀ (s : State) (i k : Nat), Memory.wf s → k ≤ 7 → s.ready → i < s.cfg.NRX → s.rdyAt i = true →
    (∀ j, j < i → s.rdyAt j = false) → s.irqRxEnabled i = true → s.stat.err = false →
    let torn := frameOfShadow (tornShadow k (s.shAt i) (shadowOf (s.moAt i)))
    ∃ t u, exec .tryReceive s = .next t ∧ exec (.irqRx i) (runFg (i + k) t) = .next u ∧
      runFg (9 - k) u = { s with
        sh := s.sh.set i (shadowOf (s.moAt i))
        rdy := s.rdy.set i false
        intpnd := { s.intpnd with slot := s.intpnd.slot.set i false }
        rxOut := s.rxOut ++ [torn]
        ports := { s.ports with code := some .ok, frame := torn }
        fg := .idle }

/-! ## Transmit path and queue -/

/-- R87: PRECHECK_HALT clears the halt bit iff the sampled bus-off bit is 1; between its steps the status may
change, and the sample decides. That its label runs it alone is the model's choice (log 23). -/
def Obligations.PrecheckHaltClearsOnBusOff : Prop :=
  (∀ s : State, s.free →
    ∃ t, exec .precheckHalt s = .next t ∧ t.ctrl = s.ctrl ∧
      runFg 1 t = { s with
        ctrl := { s.ctrl with init := if s.stat.boff then false else s.ctrl.init }
        ports := { s.ports with code := some .ok }, fg := .idle }) ∧
  ∀ (s : State) (b : Bool) (after : AfterHalt), s.fg = .halt2 b after →
    (fgStep s).ctrl = { s.ctrl with init := if b then false else s.ctrl.init } ∧ (fgStep s).stat = s.stat

/-- R89 with a prompt controller: TRY_SEND programs the least free transmit slot and returns Ok; the slot's mask is a
free value. That its label runs it alone, with no halt check before it, is the model's choice (log 23). -/
def Obligations.TrySendProgramsLeastFreeSlot : Prop :=
  ∀ (f : Frame) (s : State) (i : Nat), s.free → s.xfer.busy = false → frameOk f = true → s.leastFreeTx i →
    ∃ t m, exec (.trySend f) s = .next t ∧
      runPrompt 4 t = { s with
        mo := s.mo.set i ⟨f.id.setWidth 29, m, f.ext, true, f.len.setWidth 4, pack f.payload, true, true, false⟩
        xfer := ⟨false, i, .txframe (f.id.setWidth 29) f.ext (f.len.setWidth 4) (pack f.payload)⟩
        txSeq := s.txSeq.filter (· ≠ i) ++ [i]
        draws := s.draws + 1
        ports := { s.ports with code := some .ok }
        fg := .idle }

/-- R89, R120: with every transmit slot pending TRY_SEND returns NoFreeSlot and writes nothing. -/
def Obligations.TrySendFailsWhenAllPending : Prop :=
  ∀ (f : Frame) (s : State), s.free → frameOk f = true → s.allTxPending →
    exec (.trySend f) s = .next { s with ports := { s.ports with code := some .noFreeSlot }, fg := .idle }

/-- R92: ENQUEUE appends one entry and counts it, or, on a full queue, returns QueueFull and changes nothing. -/
def Obligations.EnqueueAppendsOrRejects : Prop :=
  ∀ (f : Frame) (s : State), s.free → frameOk f = true →
    exec (.enqueue f) s = .next
      (if s.q.count = s.cfg.QCAP then { s with ports := { s.ports with code := some .queueFull }, fg := .idle }
      else { s with
        q := { ring := s.q.ring.set ((s.q.head + s.q.count) % s.cfg.QCAP) f, head := s.q.head, count := s.q.count + 1 }
        ports := { s.ports with code := some .ok }, fg := .idle })

/-- R93 with a prompt controller: with a frame queued and a transmit slot free, DRAIN_ONE programs the oldest frame, and
only its last step advances the head: before it the frame is in the slot and the queue as it was. -/
def Obligations.DrainOneMovesOldestFrame : Prop :=
  ∀ (s : State) (i : Nat), s.free → s.xfer.busy = false → 0 < s.q.count → s.leastFreeTx i →
    ∃ t m, exec .drainOne s = .next t ∧ (runPrompt 7 t).q = s.q ∧ (runPrompt 7 t).mo = (runPrompt 8 t).mo ∧
      runPrompt 8 t = { s with
        mo := s.mo.set i ⟨(s.ringAt s.q.head).id.setWidth 29, m, (s.ringAt s.q.head).ext, true,
          (s.ringAt s.q.head).len.setWidth 4, pack (s.ringAt s.q.head).payload, true, true, false⟩
        xfer := ⟨false, i, txImage (s.ringAt s.q.head)⟩
        q := { s.q with head := (s.q.head + 1) % s.cfg.QCAP, count := s.q.count - 1 }
        ctrl := { s.ctrl with init := if s.stat.boff then false else s.ctrl.init }
        txSeq := s.txSeq.filter (· ≠ i) ++ [i]
        draws := s.draws + 1
        ports := { s.ports with code := some .ok }
        fg := .idle }

/-- R93: DRAIN_ONE returns Empty on an empty queue and writes nothing; with every transmit slot pending it returns
NoFreeSlot and leaves the queue and the slots alone. No other step than the last one of a DRAIN_ONE whose transmit attempt
returned Ok moves the head or takes an entry off, whatever agent's step it is (RESET apart). -/
def Obligations.DrainOneKeepsQueueOtherwise : Prop :=
  (∀ s : State, s.free → s.q.count = 0 →
    exec .drainOne s = .next { s with ports := { s.ports with code := some .empty }, fg := .idle }) ∧
  (∀ s : State, s.free → 0 < s.q.count → s.allTxPending →
    ∃ t, exec .drainOne s = .next t ∧
      runFg 4 t = { s with
        ctrl := { s.ctrl with init := if s.stat.boff then false else s.ctrl.init }
        ports := { s.ports with code := some .noFreeSlot }
        fg := .idle }) ∧
  (∀ s : State, (∀ poll, s.fg ≠ .drain4 .ok poll) → (fgStep s).q.head = s.q.head ∧ s.q.count ≤ (fgStep s).q.count) ∧
  ∀ (i : Instr) (s t : State), exec i s = .next t → i ≠ .reset → t.q.head = s.q.head ∧ s.q.count ≤ t.q.count

/-- R94 with a prompt controller: with a transmit slot free SEND programs it and leaves the queue alone, even when
the queue is not empty (R151). -/
def Obligations.SendProgramsFreeSlot : Prop :=
  ∀ (f : Frame) (s : State) (i : Nat), s.ready → s.xfer.busy = false → frameOk f = true → s.leastFreeTx i →
    ∃ t m, exec (.send f) s = .next t ∧
      runPrompt 7 t = { s with
        mo := s.mo.set i ⟨f.id.setWidth 29, m, f.ext, true, f.len.setWidth 4, pack f.payload, true, true, false⟩
        xfer := ⟨false, i, txImage f⟩
        ctrl := { s.ctrl with init := if s.stat.boff then false else s.ctrl.init }
        txSeq := s.txSeq.filter (· ≠ i) ++ [i]
        draws := s.draws + 1
        ports := { s.ports with code := some .ok }
        fg := .idle }

/-- R94: with every transmit slot pending SEND queues the frame, or, with the queue full, returns QueueFull and keeps
no trace of it. -/
def Obligations.SendFallsBackToQueue : Prop :=
  ∀ (f : Frame) (s : State), s.ready → frameOk f = true → s.allTxPending →
    ∃ t, exec (.send f) s = .next t ∧
      runFg 4 t =
        (if s.q.count = s.cfg.QCAP then { s with
          ctrl := { s.ctrl with init := if s.stat.boff then false else s.ctrl.init }
          ports := { s.ports with code := some .queueFull }
          fg := .idle }
        else { s with
          ctrl := { s.ctrl with init := if s.stat.boff then false else s.ctrl.init }
          q := { ring := s.q.ring.set ((s.q.head + s.q.count) % s.cfg.QCAP) f, head := s.q.head, count := s.q.count + 1 }
          ports := { s.ports with code := some .ok }
          fg := .idle })

/-- R95 with a prompt controller: POLL moves the oldest queued frame into a free slot, one frame a call; its halt check
clears `CTRL.INIT` where `STAT.BOFF` is 1 (R87, R88). -/
def Obligations.PollMovesOneFrame : Prop :=
  ∀ (s : State) (i : Nat), s.ready → s.xfer.busy = false → 0 < s.q.count → s.leastFreeTx i →
    ∃ t m, exec .poll s = .next t ∧
      runPrompt 9 t = { s with
        mo := s.mo.set i ⟨(s.ringAt s.q.head).id.setWidth 29, m, (s.ringAt s.q.head).ext, true,
          (s.ringAt s.q.head).len.setWidth 4, pack (s.ringAt s.q.head).payload, true, true, false⟩
        xfer := ⟨false, i, txImage (s.ringAt s.q.head)⟩
        q := { s.q with head := (s.q.head + 1) % s.cfg.QCAP, count := s.q.count - 1 }
        ctrl := { s.ctrl with init := if s.stat.boff then false else s.ctrl.init }
        txSeq := s.txSeq.filter (· ≠ i) ++ [i]
        draws := s.draws + 1
        ports := { s.ports with code := some .ok }
        fg := .idle }

/-- R95: POLL on an empty queue writes nothing; with the transmit region all pending it writes nothing but the halt
bit that its PRECHECK_HALT clears. Both return Ok. -/
def Obligations.PollIsIdleOtherwise : Prop :=
  (∀ s : State, s.ready → s.q.count = 0 →
    ∃ t, exec .poll s = .next t ∧ runFg 1 t = { s with ports := { s.ports with code := some .ok }, fg := .idle }) ∧
  ∀ s : State, s.ready → 0 < s.q.count → s.allTxPending →
    ∃ t, exec .poll s = .next t ∧
      runFg 5 t = { s with
        ctrl := { s.ctrl with init := if s.stat.boff then false else s.ctrl.init }
        ports := { s.ports with code := some .ok }
        fg := .idle }

/-- R96: the queue is first in, first out. Appending puts the frame last and keeps the others; dropping the head
takes off exactly the oldest frame. -/
def Obligations.QueueIsFirstInFirstOut : Prop :=
  ∀ s : State, s.q.ring.length = s.cfg.QCAP → s.q.head < s.cfg.QCAP → s.q.count ≤ s.cfg.QCAP →
    (∀ (f : Frame) (t : State), s.free → frameOk f = true → s.q.count < s.cfg.QCAP →
      exec (.enqueue f) s = .next t → t.queued = s.queued ++ [f]) ∧
    (∀ poll, s.fg = .drain4 .ok poll → 0 < s.q.count → s.queued = s.ringAt s.q.head :: (fgStep s).queued)

/-! ## Fault monitor -/

/-- R99: the four combinations of the two status bits, below the counters' limit, and the overflow at the limit, which
records CounterOverflow and changes nothing else. -/
def Obligations.IrqStatusCountsAndClearsHalt : Prop :=
  ∀ s : State, s.irqStatusEnabled = true →
    (s.stat.boff = true → s.cnt.boff < 2 ^ s.cfg.CNTW - 1 →
      exec .irqStatus s = .next { s with
        cnt := { s.cnt with boff := s.cnt.boff + 1 }
        ctrl := { s.ctrl with init := false }
        intpnd := { s.intpnd with status := false } }) ∧
    (s.stat.boff = false → s.stat.ewarn = true → s.cnt.ewarn < 2 ^ s.cfg.CNTW - 1 →
      exec .irqStatus s = .next { s with
        cnt := { s.cnt with ewarn := s.cnt.ewarn + 1 }
        intpnd := { s.intpnd with status := false } }) ∧
    (s.stat.boff = false → s.stat.ewarn = false →
      exec .irqStatus s = .next { s with intpnd := { s.intpnd with status := false } }) ∧
    (s.stat.boff = true ∧ 2 ^ s.cfg.CNTW - 1 ≤ s.cnt.boff ∨
        s.stat.boff = false ∧ s.stat.ewarn = true ∧ 2 ^ s.cfg.CNTW - 1 ≤ s.cnt.ewarn →
      exec .irqStatus s = .next { s with faults := { s.faults with counterOverflow := true } })

/-- R100: the bus-off scenario. A bus-off with the sources enabled, then the handling of its indication, counts
exactly one and leaves the halt bit clear. -/
def Obligations.BusOffIsCountedOnceAndHaltCleared : Prop :=
  ∀ (s t : State) (lost : List Nat) (e : Bool),
    s.badSlot lost = none → s.busoffEnabled lost = true → s.ctrl.ie = true →
    s.irqEn = true → s.refused = none → s.faults.counterOverflow = false → s.cnt.boff < 2 ^ s.cfg.CNTW - 1 →
    exec (.envBusoff lost e) s = .next t →
    t.stat.boff = true ∧ t.ctrl.init = true ∧ t.intpnd.status = true ∧ t.cnt = s.cnt ∧
      ∃ u, exec .irqStatus t = .next u ∧ u.cnt.boff = s.cnt.boff + 1 ∧ u.cnt.ewarn = s.cnt.ewarn ∧ u.ctrl.init = false

/-- R102: RD_COUNTERS reads the two counters and writes nothing but the result ports; it may be issued before
INIT. -/
def Obligations.RdCountersReadsBoth : Prop :=
  ∀ s : State, s.free →
    ∃ t, exec .rdCounters s = .next t ∧ t.ports.boff = s.cnt.boff ∧
      runFg 2 t = { s with
        ports := { s.ports with code := some .ok, boff := s.cnt.boff, ewarn := s.cnt.ewarn }, fg := .idle } ∧
      ∀ c : Counters, (runFg 2 { t with cnt := c }).ports.boff = s.cnt.boff ∧
        (runFg 2 { t with cnt := c }).ports.ewarn = c.ewarn

/-- R103: the counters change only in IRQ_STATUS steps, each of which adds at most 1 to at most one of them; RESET
alone returns them to zero. -/
def Obligations.CountersOnlyGrowInIrqStatus : Prop :=
  (∀ s : State, (fgStep s).cnt = s.cnt) ∧
  (∀ (i : Instr) (s t : State), exec i s = .next t → i ≠ .reset → i ≠ .irqStatus → t.cnt = s.cnt) ∧
  (∀ s t : State, exec .reset s = .next t → t.cnt = ⟨0, 0⟩) ∧
  ∀ s t : State, exec .irqStatus s = .next t →
    t.cnt = s.cnt ∨ t.cnt = { s.cnt with boff := s.cnt.boff + 1 } ∨ t.cnt = { s.cnt with ewarn := s.cnt.ewarn + 1 }

/-! ## The controller -/

/-- R105: the two effects of ENV_XFER_DONE, and that it needs nothing but a pending transfer. The mask of a transmit
slot is a free value. -/
def Obligations.XferDoneLandsTheImage : Prop :=
  ∀ s : State, s.xfer.busy = true →
    (∀ id mask xtd, s.xfer.image = .filter id mask xtd →
      exec .envXferDone s = .next { s with
        mo := s.mo.set s.xfer.target { s.moAt s.xfer.target with
          id := id, mask := mask, xtd := xtd, dir := false, txrqst := false, armed := true }
        xfer := { s.xfer with busy := false } }) ∧
    (∀ id xtd dlc w, s.xfer.image = .txframe id xtd dlc w →
      ∃ m, exec .envXferDone s = .next { s with
        mo := s.mo.set s.xfer.target ⟨id, m, xtd, true, dlc, w, true, true, false⟩
        xfer := { s.xfer with busy := false }
        txSeq := s.txSeq.filter (· ≠ s.xfer.target) ++ [s.xfer.target]
        draws := s.draws + 1 })

/-- R106, R79: an enabled ENV_RX stores the frame into exactly one slot and raises that slot's indication if `CTRL.IE`
is 1; without one of its preconditions no frame is stored and nothing changes: the controller on the bus, a receive slot
that accepts the frame, a well-formed frame, and the match policy. That its label then stands for no step is the model's
choice (log 3). -/
def Obligations.EnvRxStoresTheFrame : Prop :=
  (∀ (i : Nat) (f : Frame) (s : State), i < s.cfg.NRX → s.cfg.NRX ≤ s.cfg.N → s.ctrl.init = false →
    s.stat.boff = false → frameOk f = true → accepts (s.moAt i) f = true →
    (s.cfg.rxMatch = .lowestIndex → ∀ j, j < i → accepts (s.moAt j) f = false) →
    exec (.envRx i f) s = .next { s with
      mo := s.mo.set i { s.moAt i with id := f.id.setWidth 29, dlc := f.len.setWidth 4, w := pack f.payload }
      intpnd := { s.intpnd with slot := if s.ctrl.ie then s.intpnd.slot.set i true else s.intpnd.slot } }) ∧
  ∀ (i : Nat) (f : Frame) (s : State), i < s.cfg.N →
    ¬ (i < s.cfg.NRX ∧ s.ctrl.init = false ∧ s.stat.boff = false ∧ frameOk f = true ∧ accepts (s.moAt i) f = true ∧
      (s.cfg.rxMatch = .lowestIndex → ∀ j, j < i → accepts (s.moAt j) f = false)) →
    exec (.envRx i f) s = .next s

/-- R106, R79: what a slot accepts, bit by bit: armed, receive direction, equal tags, and equal identifier bits
wherever the mask has a 1 below the identifier's width. -/
def Obligations.AcceptanceComparesMaskedBits : Prop :=
  ∀ (m : MsgObj) (f : Frame),
    accepts m f = true ↔
      m.armed = true ∧ m.dir = false ∧ f.ext = m.xtd ∧
        ∀ k, k < (if m.xtd then 29 else 11) → m.mask.getLsbD k = true → f.id.getLsbD k = m.id.getLsbD k

/-- R106, D21: storing an accepted frame's identifier over the filter does not change what the slot accepts. -/
def Obligations.AcceptanceSurvivesReception : Prop :=
  ∀ (m : MsgObj) (f g : Frame), accepts m f = true → accepts (m.withFrame f) g = accepts m g

/-- R107: an enabled ENV_TX_DONE puts the slot's frame on the bus and frees the slot; no indication. Without one of its
preconditions nothing is transmitted and nothing changes: the controller on the bus, a pending transmit slot of direction
1, and `TX_ORDER` (R152). That its label then stands for no step is the model's choice (log 3). -/
def Obligations.EnvTxDoneSendsTheFrame : Prop :=
  (∀ (i : Nat) (s : State), s.cfg.NRX ≤ i → i < s.cfg.N → s.ctrl.init = false → s.stat.boff = false →
    (s.moAt i).txrqst = true → (s.moAt i).dir = true →
    (s.cfg.txOrder = .lowestIndex → ∀ j, s.cfg.NRX ≤ j → j < i → s.txPending j = false) →
    (s.cfg.txOrder = .programmingOrder → s.txSeq.head? = some i) →
    exec (.envTxDone i) s = .next { s with
      mo := s.mo.set i { s.moAt i with txrqst := false }
      busTx := s.busTx ++ [⟨(s.moAt i).id.setWidth 32, unpack (s.moAt i).w, (s.moAt i).dlc.setWidth 8, (s.moAt i).xtd⟩]
      txSeq := s.txSeq.filter (· ≠ i) }) ∧
  ∀ (i : Nat) (s : State), i < s.cfg.N →
    ¬ (s.cfg.NRX ≤ i ∧ s.ctrl.init = false ∧ s.stat.boff = false ∧ (s.moAt i).txrqst = true ∧ (s.moAt i).dir = true ∧
      (s.cfg.txOrder = .lowestIndex → ∀ j, s.cfg.NRX ≤ j → j < i → s.txPending j = false) ∧
      (s.cfg.txOrder = .programmingOrder → s.txSeq.head? = some i)) →
    exec (.envTxDone i) s = .next s

/-- R108, R115: the two error-warning events. -/
def Obligations.ErrorWarningRisesAndFalls : Prop :=
  (∀ s : State, s.ctrl.init = false → s.stat.ewarn = false → s.stat.boff = false →
    exec .envEwarnOn s = .next { s with
      stat := { s.stat with ewarn := true }
      intpnd := { s.intpnd with status := if s.ctrl.ie then true else s.intpnd.status } }) ∧
  ∀ s : State, s.stat.ewarn = true → s.stat.boff = false →
    exec .envEwarnOff s = .next { s with stat := { s.stat with ewarn := false } }

/-- R109, R110, R111: bus-off and silent halt enter the fault state, halt the controller and abandon the chosen
pending slots; only bus-off raises an indication. Without one of their preconditions nothing changes: the controller on the
bus (so a further bus-off needs a recovery first, R100), and a set of pending transmit slots. That their labels then stand
for no step is the model's choice (log 3). -/
def Obligations.BusOffHaltsAndAbandons : Prop :=
  (∀ (lost : List Nat) (e : Bool) (s : State), s.ctrl.init = false → s.stat.boff = false →
    (∀ i ∈ lost, s.cfg.NRX ≤ i ∧ i < s.cfg.N ∧ s.txPending i = true) →
    ∃ t, exec (.envSilentHalt lost e) s = .next t ∧
      t = { s with
        stat := { s.stat with boff := true, ewarn := e }
        ctrl := { s.ctrl with init := true }
        mo := t.mo, txLost := t.txLost, txSeq := s.txSeq.filter (· ∉ lost) } ∧
      t.mo.length = s.mo.length ∧
      (∀ i, t.moAt i = if i ∈ lost then { s.moAt i with txrqst := false } else s.moAt i) ∧
      (∃ l : List Nat, l.Nodup ∧ (∀ i, i ∈ l ↔ i ∈ lost) ∧
        t.txLost = s.txLost ++ l.map fun i => frameOfFields (s.moAt i).id (s.moAt i).xtd (s.moAt i).dlc (s.moAt i).w) ∧
      exec (.envBusoff lost e) s =
        .next { t with intpnd := { s.intpnd with status := if s.ctrl.ie then true else s.intpnd.status } }) ∧
  ∀ (lost : List Nat) (e : Bool) (s : State), (∀ i ∈ lost, i < s.cfg.N) →
    ¬ (s.ctrl.init = false ∧ s.stat.boff = false ∧ ∀ i ∈ lost, s.cfg.NRX ≤ i ∧ s.txPending i = true) →
    exec (.envBusoff lost e) s = .next s ∧ exec (.envSilentHalt lost e) s = .next s

/-- R116: recovery needs the halt bit clear and clears both status levels; while the halt bit is set the block stays
bus-off. Which steps clear the halt bit: of the foreground's, INIT's step 4 (R73) and a PRECHECK_HALT that has sampled
`STAT.BOFF` as 1 (R87); of all operations, an IRQ_STATUS that finds `STAT.BOFF` 1 (R99). -/
def Obligations.RecoveryNeedsHaltClear : Prop :=
  (∀ s : State, s.stat.boff = true →
    (s.ctrl.init = false → exec .envRecovered s = .next { s with stat := { s.stat with boff := false, ewarn := false } }) ∧
    (s.ctrl.init = true → ∀ t, exec .envRecovered s = .next t → t.stat.boff = true ∧ t.stat.ewarn = s.stat.ewarn)) ∧
  (∀ s : State, s.ctrl.init = true → (fgStep s).ctrl.init = false → s.fg = .init4 ∨ ∃ after, s.fg = .halt2 true after) ∧
  ∀ (i : Instr) (s t : State), exec i s = .next t → s.ctrl.init = true → t.ctrl.init = false →
    i = .irqStatus ∧ s.stat.boff = true

/-- R114: the error flag may be set at any time the controller is not halted, with or without an indication, and only
IRQ_RX clears it (RESET apart). -/
def Obligations.ErrorFlagIsSetByController : Prop :=
  (∀ (r : Bool) (s : State), s.ctrl.init = false →
    exec (.envErrSet r) s = .next { s with
      stat := { s.stat with err := true }
      intpnd := { s.intpnd with status := if r && s.ctrl.ie then true else s.intpnd.status } }) ∧
  (∀ s : State, (fgStep s).stat.err = s.stat.err) ∧
  ∀ (i : Instr) (s t : State), exec i s = .next t → s.stat.err = true → t.stat.err = false →
    i = .reset ∨ ∃ k, i = .irqRx k

/-- R112: a halted controller is silent, but for the two events the halt bit never disables; a bus-off one neither
receives nor transmits. And the events that only a level or a pending transfer enables have no effect without it (R105,
R108, R115, R116). That a disabled event's label changes nothing is the model's choice (log 3). -/
def Obligations.HaltedControllerIsSilent : Prop :=
  ∀ s : State,
    (s.ctrl.init = true →
      exec .envEwarnOn s = .next s ∧ exec .envRecovered s = .next s ∧ (∀ r, exec (.envErrSet r) s = .next s) ∧
      (s.xfer.busy = true → exec .envXferDone s = .next (xferDoneEffect s)) ∧
      (s.stat.ewarn = true → s.stat.boff = false → exec .envEwarnOff s = .next { s with stat := { s.stat with ewarn := false } }) ∧
      ∀ lost e, (∀ i ∈ lost, i < s.cfg.N) →
        exec (.envBusoff lost e) s = .next s ∧ exec (.envSilentHalt lost e) s = .next s) ∧
    (s.ctrl.init = true ∨ s.stat.boff = true →
      ∀ i, i < s.cfg.N → (∀ f, exec (.envRx i f) s = .next s) ∧ exec (.envTxDone i) s = .next s) ∧
    (s.xfer.busy = false → exec .envXferDone s = .next s) ∧
    (s.stat.ewarn = true ∨ s.stat.boff = true → exec .envEwarnOn s = .next s) ∧
    (s.stat.ewarn = false ∨ s.stat.boff = true → exec .envEwarnOff s = .next s) ∧
    (s.stat.boff = false → exec .envRecovered s = .next s)

/-- R113: while `CTRL.IE` is 0 no event of the controller sets any bit of `INTPND`. -/
def Obligations.NoIndicationWithoutEnable : Prop :=
  ∀ (i : Instr) (s t : State), opClassOf i.opcode = 3 → s.ctrl.ie = false → exec i s = .next t → t.intpnd = s.intpnd

/-- R42, R62, R63 (the stop is log 7's): a step label naming a slot that does not exist stops, a set that holds one
among them. -/
def Obligations.LabelsOutsideTheSlotSpaceStop : Prop :=
  ∀ s : State,
    (∀ i, s.cfg.NRX ≤ i → exec (.irqRx i) s = .fault (.noSuchSlot i)) ∧
    (∀ i, s.cfg.N ≤ i → (∀ f, exec (.envRx i f) s = .fault (.noSuchSlot i)) ∧
      exec (.envTxDone i) s = .fault (.noSuchSlot i) ∧ ∀ image, exec (.xferWait i image) s = .fault (.noSuchSlot i)) ∧
    ∀ (lost : List Nat) (e : Bool), (∃ k ∈ lost, s.cfg.N ≤ k) → ∃ k ∈ lost, s.cfg.N ≤ k ∧
      exec (.envBusoff lost e) s = .fault (.noSuchSlot k) ∧ exec (.envSilentHalt lost e) s = .fault (.noSuchSlot k)

/-! ## Reset -/

/-- R139, R36: RESET gives every piece of control state its reset value, drops what is in progress, clears the marks
and the ghost lists, and leaves the parameters alone. -/
def Obligations.ResetRestoresControlState : Prop :=
  ∀ s : State, ∃ t, exec .reset s = .next t ∧ t.cfg = s.cfg ∧ t.inputs = s.inputs ∧
    (∀ i, (t.moAt i).txrqst = false ∧ (t.moAt i).armed = false ∧ t.inuseAt i = false ∧ t.rdyAt i = false ∧
      t.slotPending i = false) ∧
    t.q.head = 0 ∧ t.q.count = 0 ∧ t.cnt = ⟨0, 0⟩ ∧ t.ctrl = ⟨true, false⟩ ∧ t.stat = ⟨false, false, false⟩ ∧
    t.intpnd.status = false ∧ t.irqEn = true ∧ t.xfer.busy = false ∧ t.inited = false ∧ t.fg = .idle ∧
    t.busTx = [] ∧ t.rxOut = [] ∧ t.txLost = [] ∧ t.faults = ⟨false, false⟩ ∧ t.refused = none ∧
    (Memory.wf t) ∧ t.quiescent = true

/-- R36, R140: the invariant holds after reset, for every choice of parameters. -/
def Obligations.ResetMeetsTheInvariant : Prop :=
  (∀ (p : Params) (n : Nat) (ins : List Input), p.ok = true →
    BlockInv (State.afterReset p n ins) ∧ LengthInv (State.afterReset p n ins) ∧ OrderInv (State.afterReset p n ins)) ∧
  BlockInv State.reset

/-! ## Invariants that every step keeps -/

/-- R12, R14, R17, R20 to R22, R28, R53, R74, R89, R113, R157: every step keeps the invariant. -/
def Obligations.StepKeepsTheInvariant : Prop :=
  ∀ s t : State, BlockInv s → step s = .next t → BlockInv t

/-- R83 corner case (c), R106: every step keeps the lengths on the receive path in range. -/
def Obligations.StepKeepsLengthsInRange : Prop :=
  ∀ s t : State, BlockInv s → LengthInv s → step s = .next t → LengthInv t

/-- R75 corner case (b), R76, R160: every step keeps the slots in use the first ones, the armed slots in use or about to be
marked, and the target of a FILTER transfer unarmed. -/
def Obligations.StepKeepsSlotsInOrder : Prop :=
  ∀ s t : State, BlockInv s → OrderInv s → step s = .next t → OrderInv t

/-- R2, R14, R76, R85, R144: no step but RESET takes a slot away from what it holds. A receive slot in use stays in use, and
keeps its filter and what it accepts; an armed one is written by nothing but the receptions into it, so an IRQ_RX
copies the frame most recently stored; a pending transmit slot keeps its frame, or the frame is on the bus or abandoned
and the slot is free. The foreground writes no slot at all. -/
def Obligations.SlotsInUseAreKept : Prop :=
  (∀ s : State, (fgStep s).mo = s.mo ∧ ∀ k, s.inuseAt k = true → (fgStep s).inuseAt k = true) ∧
  ∀ (i : Instr) (s t : State), exec i s = .next t → i ≠ .reset →
    (∀ k, s.inuseAt k = true → t.inuseAt k = true) ∧
    (BlockInv s →
      (∀ k, s.inuseAt k = true →
        (t.moAt k).mask = (s.moAt k).mask ∧ (t.moAt k).xtd = (s.moAt k).xtd ∧ (t.moAt k).dir = (s.moAt k).dir ∧
          (t.moAt k).armed = (s.moAt k).armed ∧ ∀ f, accepts (t.moAt k) f = accepts (s.moAt k) f) ∧
      (OrderInv s → ∀ k, (s.moAt k).armed = true →
        t.moAt k = s.moAt k ∨ ∃ f, i = .envRx k f ∧ t.moAt k = (s.moAt k).withFrame f) ∧
      ∀ k, s.txPending k = true →
        t.moAt k = s.moAt k ∨
          t.txPending k = false ∧
            (t.busTx = s.busTx ++ [frameOfSlot (s.moAt k)] ∨
              ∃ l, t.txLost = s.txLost ++ l ∧ frameOfSlot (s.moAt k) ∈ l))

/-- R123, R124, R139: a recorded fault and the refusal mark stay until RESET. -/
def Obligations.MarksArePermanent : Prop :=
  (∀ s : State, (fgStep s).refused = s.refused ∧
    (s.faults.counterOverflow = true → (fgStep s).faults.counterOverflow = true) ∧
    (s.faults.handshakeStall = true → (fgStep s).faults.handshakeStall = true)) ∧
  ∀ (i : Instr) (s t : State), exec i s = .next t → i ≠ .reset →
    (s.refused ≠ none → t.refused ≠ none) ∧
    (s.faults.counterOverflow = true → t.faults.counterOverflow = true) ∧
    (s.faults.handshakeStall = true → t.faults.handshakeStall = true)

/-! ## Access rights (R35) -/

/-- R35, column FG: what no micro-step of the foreground writes; of the transfer port, nothing while it is busy
(R28). -/
def Obligations.ForegroundWritesOnlyItsState : Prop :=
  ∀ s : State, let t := fgStep s
    t.cfg = s.cfg ∧ t.mo = s.mo ∧ t.sh = s.sh ∧ t.cnt = s.cnt ∧ t.stat = s.stat ∧ t.intpnd = s.intpnd ∧
      t.busTx = s.busTx ∧ t.txLost = s.txLost ∧ t.txSeq = s.txSeq ∧ t.refused = s.refused ∧ t.draws = s.draws ∧
      t.inputs = s.inputs ∧ t.issuer = s.issuer ∧
      t.faults.counterOverflow = s.faults.counterOverflow ∧ (s.ctrl.ie = true → t.ctrl.ie = true) ∧
      (s.inited = true → t.inited = true) ∧ (s.xfer.busy = true → t.xfer = s.xfer) ∧
      (∀ i, t.rdyAt i = true → s.rdyAt i = true)

/-- R35, column IRQ, and R134: what no step of the interrupt context writes; that it sets ready flags and the overflow
mark only, and clears the halt bit, the error flag and indications only. -/
def Obligations.InterruptsWriteOnlyTheirState : Prop :=
  ∀ (i : Instr) (s t : State), opClassOf i.opcode = 2 → exec i s = .next t →
    t.cfg = s.cfg ∧ t.mo = s.mo ∧ t.inuse = s.inuse ∧ t.q = s.q ∧ t.ctrl.ie = s.ctrl.ie ∧
      t.stat.ewarn = s.stat.ewarn ∧ t.stat.boff = s.stat.boff ∧ t.irqEn = s.irqEn ∧ t.clkdiv = s.clkdiv ∧ t.bt = s.bt ∧
      t.xfer = s.xfer ∧ t.inited = s.inited ∧ t.fg = s.fg ∧ t.ports = s.ports ∧ t.busTx = s.busTx ∧
      t.rxOut = s.rxOut ∧ t.txLost = s.txLost ∧ t.refused = s.refused ∧ t.txSeq = s.txSeq ∧ t.draws = s.draws ∧
      t.inputs = s.inputs ∧ t.issuer = s.issuer ∧ t.faults.handshakeStall = s.faults.handshakeStall ∧
      (s.faults.counterOverflow = true → t.faults.counterOverflow = true) ∧
      (t.intpnd.status = true → s.intpnd.status = true) ∧ (t.ctrl.init = true → s.ctrl.init = true) ∧
      (t.stat.err = true → s.stat.err = true) ∧
      (∀ k, s.rdyAt k = true → t.rdyAt k = true) ∧ (∀ k, t.slotPending k = true → s.slotPending k = true)

/-- R35, column CTL: the controller neither reads nor writes `INUSE`, `RDY`, `SH`, `Q`, `CNT`, `IRQ_EN`, `INITED` or the
foreground's position: with other values of them an event has the same outcome, with those values still there. -/
def Obligations.ControllerNeitherReadsNorWritesSoftwareState : Prop :=
  ∀ (i : Instr) (s : State) (inuse rdy : List Bool) (sh : List Shadow) (q : Queue) (cnt : Counters)
    (irqEn inited : Bool) (fg : Fg), opClassOf i.opcode = 3 →
    exec i (s.withSoftware inuse rdy sh q cnt irqEn inited fg) =
      match exec i s with
      | .next t => .next (t.withSoftware inuse rdy sh q cnt irqEn inited fg)
      | .fault r => .fault r
      | .refused r => .refused r

/-! ## Derived values and packed views -/

/-- R31, R101: the monitor's state is read from the status bits, the foreground never changes it, and an operation
changes it only by a transition of R101's table and its cause, or by RESET, to Normal. There is none from BusOff to
Warning. -/
def Obligations.MonitorStateFollowsTheStatus : Prop :=
  (∀ s : State, (s.fm = .busOff ↔ s.stat.boff = true) ∧
    (s.fm = .warning ↔ s.stat.boff = false ∧ s.stat.ewarn = true) ∧
    (s.fm = .normal ↔ s.stat.boff = false ∧ s.stat.ewarn = false)) ∧
  (∀ s : State, (fgStep s).fm = s.fm) ∧
  ∀ (i : Instr) (s t : State), exec i s = .next t →
    t.fm = s.fm ∨ (i = .reset ∧ t.fm = .normal) ∨
    (s.fm = .normal ∧ t.fm = .warning ∧ i = .envEwarnOn) ∨
    (s.fm ≠ .busOff ∧ t.fm = .busOff ∧ ∃ lost e, i = .envBusoff lost e ∨ i = .envSilentHalt lost e) ∨
    (s.fm = .warning ∧ t.fm = .normal ∧ i = .envEwarnOff) ∨
    (s.fm = .busOff ∧ t.fm = .normal ∧ i = .envRecovered)

/-- R60, R62, R64, R65, R66: the packed views, bit for bit. The width of `CTRL` and `STAT` as words is the model's choice
(log 19). -/
def Obligations.PackedViewsAreAsStated : Prop :=
  (∀ (c : Ctrl) (k : Nat), (ctrlWord c).getLsbD k = (decide (k = 0) && c.init || decide (k = 1) && c.ie)) ∧
  (∀ (t : Stat) (k : Nat), (statWord t).getLsbD k =
    (decide (k = 0) && t.err || decide (k = 1) && t.ewarn || decide (k = 2) && t.boff)) ∧
  (∀ (slots : List Bool) (k : Nat), (slotBits slots).testBit k = slots.getD k false) ∧
  (resultNumber .ok = 0 ∧ resultNumber .noFreeSlot = 1 ∧ resultNumber .queueFull = 2 ∧ resultNumber .empty = 3 ∧
    resultNumber .noMessage = 4) ∧
  (∀ ind : Half, indicated ind =
    if 2 ^ 15 ≤ ind.toNat then (if ind.toNat = 2 ^ 15 then some .irqStatus else none) else some (.irqRx ind.toNat)) ∧
  (∀ e : Shadow, (shadowBits e).toNat =
    e.id.toNat + 2 ^ 32 * e.dlc.toNat + 2 ^ 36 * e.ext.toNat + 2 ^ 48 * e.w.w0.toNat + 2 ^ 64 * e.w.w1.toNat +
      2 ^ 80 * e.w.w2.toNat + 2 ^ 96 * e.w.w3.toNat) ∧
  (∀ (id mask : Ident) (xtd : Bool), imageBits (.filter id mask xtd) =
    id.toNat + 2 ^ 29 * xtd.toNat + 2 ^ 32 * mask.toNat) ∧
  ∀ (id : Ident) (xtd : Bool) (dlc : Dlc) (w : DataWords), imageBits (.txframe id xtd dlc w) =
    id.toNat + 2 ^ 29 * xtd.toNat + 2 ^ 30 + 2 ^ 31 + 2 ^ 64 * dlc.toNat + 2 ^ 68 + 2 ^ 69 + 2 ^ 80 * w.w0.toNat +
      2 ^ 96 * w.w1.toNat + 2 ^ 112 * w.w2.toNat + 2 ^ 128 * w.w3.toNat
end

