-- ==== Sys2Proof/Laws/State.lean ====
section
/-! SUPPORT. What each named update of the state does to each field and to each reading: one lemma a field an update,
true by rfl, so that no proof unfolds a record update. -/

namespace Sys2Proof.Machine

/-! ## setMo -/

@[simp] theorem State.setMo_cfg (s : State) (i : Nat) (m : MsgObj) : (s.setMo i m).cfg = s.cfg := rfl
@[simp] theorem State.setMo_mo (s : State) (i : Nat) (m : MsgObj) : (s.setMo i m).mo = s.mo.set i m := rfl
@[simp] theorem State.setMo_inuse (s : State) (i : Nat) (m : MsgObj) : (s.setMo i m).inuse = s.inuse := rfl
@[simp] theorem State.setMo_rdy (s : State) (i : Nat) (m : MsgObj) : (s.setMo i m).rdy = s.rdy := rfl
@[simp] theorem State.setMo_sh (s : State) (i : Nat) (m : MsgObj) : (s.setMo i m).sh = s.sh := rfl
@[simp] theorem State.setMo_q (s : State) (i : Nat) (m : MsgObj) : (s.setMo i m).q = s.q := rfl
@[simp] theorem State.setMo_cnt (s : State) (i : Nat) (m : MsgObj) : (s.setMo i m).cnt = s.cnt := rfl
@[simp] theorem State.setMo_ctrl (s : State) (i : Nat) (m : MsgObj) : (s.setMo i m).ctrl = s.ctrl := rfl
@[simp] theorem State.setMo_stat (s : State) (i : Nat) (m : MsgObj) : (s.setMo i m).stat = s.stat := rfl
@[simp] theorem State.setMo_intpnd (s : State) (i : Nat) (m : MsgObj) : (s.setMo i m).intpnd = s.intpnd := rfl
@[simp] theorem State.setMo_irqEn (s : State) (i : Nat) (m : MsgObj) : (s.setMo i m).irqEn = s.irqEn := rfl
@[simp] theorem State.setMo_clkdiv (s : State) (i : Nat) (m : MsgObj) : (s.setMo i m).clkdiv = s.clkdiv := rfl
@[simp] theorem State.setMo_bt (s : State) (i : Nat) (m : MsgObj) : (s.setMo i m).bt = s.bt := rfl
@[simp] theorem State.setMo_xfer (s : State) (i : Nat) (m : MsgObj) : (s.setMo i m).xfer = s.xfer := rfl
@[simp] theorem State.setMo_inited (s : State) (i : Nat) (m : MsgObj) : (s.setMo i m).inited = s.inited := rfl
@[simp] theorem State.setMo_fg (s : State) (i : Nat) (m : MsgObj) : (s.setMo i m).fg = s.fg := rfl
@[simp] theorem State.setMo_ports (s : State) (i : Nat) (m : MsgObj) : (s.setMo i m).ports = s.ports := rfl
@[simp] theorem State.setMo_busTx (s : State) (i : Nat) (m : MsgObj) : (s.setMo i m).busTx = s.busTx := rfl
@[simp] theorem State.setMo_rxOut (s : State) (i : Nat) (m : MsgObj) : (s.setMo i m).rxOut = s.rxOut := rfl
@[simp] theorem State.setMo_txLost (s : State) (i : Nat) (m : MsgObj) : (s.setMo i m).txLost = s.txLost := rfl
@[simp] theorem State.setMo_faults (s : State) (i : Nat) (m : MsgObj) : (s.setMo i m).faults = s.faults := rfl
@[simp] theorem State.setMo_refused (s : State) (i : Nat) (m : MsgObj) : (s.setMo i m).refused = s.refused := rfl
@[simp] theorem State.setMo_txSeq (s : State) (i : Nat) (m : MsgObj) : (s.setMo i m).txSeq = s.txSeq := rfl
@[simp] theorem State.setMo_issuer (s : State) (i : Nat) (m : MsgObj) : (s.setMo i m).issuer = s.issuer := rfl
@[simp] theorem State.setMo_inputs (s : State) (i : Nat) (m : MsgObj) : (s.setMo i m).inputs = s.inputs := rfl
@[simp] theorem State.setMo_draws (s : State) (i : Nat) (m : MsgObj) : (s.setMo i m).draws = s.draws := rfl
@[simp] theorem State.setMo_shAt (s : State) (i : Nat) (m : MsgObj) (j : Nat) : (s.setMo i m).shAt j = s.shAt j := rfl
@[simp] theorem State.setMo_rdyAt (s : State) (i : Nat) (m : MsgObj) (j : Nat) : (s.setMo i m).rdyAt j = s.rdyAt j := rfl
@[simp] theorem State.setMo_inuseAt (s : State) (i : Nat) (m : MsgObj) (j : Nat) : (s.setMo i m).inuseAt j = s.inuseAt j := rfl
@[simp] theorem State.setMo_slotPending (s : State) (i : Nat) (m : MsgObj) (j : Nat) : (s.setMo i m).slotPending j = s.slotPending j := rfl
@[simp] theorem State.setMo_ringAt (s : State) (i : Nat) (m : MsgObj) (j : Nat) : (s.setMo i m).ringAt j = s.ringAt j := rfl
@[simp] theorem State.setMo_freeRxSlot (s : State) (i : Nat) (m : MsgObj) : (s.setMo i m).freeRxSlot = s.freeRxSlot := rfl
@[simp] theorem State.setMo_onBus (s : State) (i : Nat) (m : MsgObj) : (s.setMo i m).onBus = s.onBus := rfl
@[simp] theorem State.setMo_waiting (s : State) (i : Nat) (m : MsgObj) : (s.setMo i m).waiting = s.waiting := rfl
@[simp] theorem State.setMo_masked (s : State) (i : Nat) (m : MsgObj) : (s.setMo i m).masked = s.masked := rfl
@[simp] theorem State.setMo_initialising (s : State) (i : Nat) (m : MsgObj) : (s.setMo i m).initialising = s.initialising := rfl

/-! ## setSh -/

@[simp] theorem State.setSh_cfg (s : State) (i : Nat) (e : Shadow) : (s.setSh i e).cfg = s.cfg := rfl
@[simp] theorem State.setSh_mo (s : State) (i : Nat) (e : Shadow) : (s.setSh i e).mo = s.mo := rfl
@[simp] theorem State.setSh_inuse (s : State) (i : Nat) (e : Shadow) : (s.setSh i e).inuse = s.inuse := rfl
@[simp] theorem State.setSh_rdy (s : State) (i : Nat) (e : Shadow) : (s.setSh i e).rdy = s.rdy := rfl
@[simp] theorem State.setSh_sh (s : State) (i : Nat) (e : Shadow) : (s.setSh i e).sh = s.sh.set i e := rfl
@[simp] theorem State.setSh_q (s : State) (i : Nat) (e : Shadow) : (s.setSh i e).q = s.q := rfl
@[simp] theorem State.setSh_cnt (s : State) (i : Nat) (e : Shadow) : (s.setSh i e).cnt = s.cnt := rfl
@[simp] theorem State.setSh_ctrl (s : State) (i : Nat) (e : Shadow) : (s.setSh i e).ctrl = s.ctrl := rfl
@[simp] theorem State.setSh_stat (s : State) (i : Nat) (e : Shadow) : (s.setSh i e).stat = s.stat := rfl
@[simp] theorem State.setSh_intpnd (s : State) (i : Nat) (e : Shadow) : (s.setSh i e).intpnd = s.intpnd := rfl
@[simp] theorem State.setSh_irqEn (s : State) (i : Nat) (e : Shadow) : (s.setSh i e).irqEn = s.irqEn := rfl
@[simp] theorem State.setSh_clkdiv (s : State) (i : Nat) (e : Shadow) : (s.setSh i e).clkdiv = s.clkdiv := rfl
@[simp] theorem State.setSh_bt (s : State) (i : Nat) (e : Shadow) : (s.setSh i e).bt = s.bt := rfl
@[simp] theorem State.setSh_xfer (s : State) (i : Nat) (e : Shadow) : (s.setSh i e).xfer = s.xfer := rfl
@[simp] theorem State.setSh_inited (s : State) (i : Nat) (e : Shadow) : (s.setSh i e).inited = s.inited := rfl
@[simp] theorem State.setSh_fg (s : State) (i : Nat) (e : Shadow) : (s.setSh i e).fg = s.fg := rfl
@[simp] theorem State.setSh_ports (s : State) (i : Nat) (e : Shadow) : (s.setSh i e).ports = s.ports := rfl
@[simp] theorem State.setSh_busTx (s : State) (i : Nat) (e : Shadow) : (s.setSh i e).busTx = s.busTx := rfl
@[simp] theorem State.setSh_rxOut (s : State) (i : Nat) (e : Shadow) : (s.setSh i e).rxOut = s.rxOut := rfl
@[simp] theorem State.setSh_txLost (s : State) (i : Nat) (e : Shadow) : (s.setSh i e).txLost = s.txLost := rfl
@[simp] theorem State.setSh_faults (s : State) (i : Nat) (e : Shadow) : (s.setSh i e).faults = s.faults := rfl
@[simp] theorem State.setSh_refused (s : State) (i : Nat) (e : Shadow) : (s.setSh i e).refused = s.refused := rfl
@[simp] theorem State.setSh_txSeq (s : State) (i : Nat) (e : Shadow) : (s.setSh i e).txSeq = s.txSeq := rfl
@[simp] theorem State.setSh_issuer (s : State) (i : Nat) (e : Shadow) : (s.setSh i e).issuer = s.issuer := rfl
@[simp] theorem State.setSh_inputs (s : State) (i : Nat) (e : Shadow) : (s.setSh i e).inputs = s.inputs := rfl
@[simp] theorem State.setSh_draws (s : State) (i : Nat) (e : Shadow) : (s.setSh i e).draws = s.draws := rfl
@[simp] theorem State.setSh_moAt (s : State) (i : Nat) (e : Shadow) (j : Nat) : (s.setSh i e).moAt j = s.moAt j := rfl
@[simp] theorem State.setSh_rdyAt (s : State) (i : Nat) (e : Shadow) (j : Nat) : (s.setSh i e).rdyAt j = s.rdyAt j := rfl
@[simp] theorem State.setSh_inuseAt (s : State) (i : Nat) (e : Shadow) (j : Nat) : (s.setSh i e).inuseAt j = s.inuseAt j := rfl
@[simp] theorem State.setSh_slotPending (s : State) (i : Nat) (e : Shadow) (j : Nat) : (s.setSh i e).slotPending j = s.slotPending j := rfl
@[simp] theorem State.setSh_ringAt (s : State) (i : Nat) (e : Shadow) (j : Nat) : (s.setSh i e).ringAt j = s.ringAt j := rfl
@[simp] theorem State.setSh_txPending (s : State) (i : Nat) (e : Shadow) (j : Nat) : (s.setSh i e).txPending j = s.txPending j := rfl
@[simp] theorem State.setSh_freeRxSlot (s : State) (i : Nat) (e : Shadow) : (s.setSh i e).freeRxSlot = s.freeRxSlot := rfl
@[simp] theorem State.setSh_freeTxSlot (s : State) (i : Nat) (e : Shadow) : (s.setSh i e).freeTxSlot = s.freeTxSlot := rfl
@[simp] theorem State.setSh_onBus (s : State) (i : Nat) (e : Shadow) : (s.setSh i e).onBus = s.onBus := rfl
@[simp] theorem State.setSh_waiting (s : State) (i : Nat) (e : Shadow) : (s.setSh i e).waiting = s.waiting := rfl
@[simp] theorem State.setSh_masked (s : State) (i : Nat) (e : Shadow) : (s.setSh i e).masked = s.masked := rfl
@[simp] theorem State.setSh_initialising (s : State) (i : Nat) (e : Shadow) : (s.setSh i e).initialising = s.initialising := rfl

/-! ## setRdy -/

@[simp] theorem State.setRdy_cfg (s : State) (i : Nat) (b : Bool) : (s.setRdy i b).cfg = s.cfg := rfl
@[simp] theorem State.setRdy_mo (s : State) (i : Nat) (b : Bool) : (s.setRdy i b).mo = s.mo := rfl
@[simp] theorem State.setRdy_inuse (s : State) (i : Nat) (b : Bool) : (s.setRdy i b).inuse = s.inuse := rfl
@[simp] theorem State.setRdy_rdy (s : State) (i : Nat) (b : Bool) : (s.setRdy i b).rdy = s.rdy.set i b := rfl
@[simp] theorem State.setRdy_sh (s : State) (i : Nat) (b : Bool) : (s.setRdy i b).sh = s.sh := rfl
@[simp] theorem State.setRdy_q (s : State) (i : Nat) (b : Bool) : (s.setRdy i b).q = s.q := rfl
@[simp] theorem State.setRdy_cnt (s : State) (i : Nat) (b : Bool) : (s.setRdy i b).cnt = s.cnt := rfl
@[simp] theorem State.setRdy_ctrl (s : State) (i : Nat) (b : Bool) : (s.setRdy i b).ctrl = s.ctrl := rfl
@[simp] theorem State.setRdy_stat (s : State) (i : Nat) (b : Bool) : (s.setRdy i b).stat = s.stat := rfl
@[simp] theorem State.setRdy_intpnd (s : State) (i : Nat) (b : Bool) : (s.setRdy i b).intpnd = s.intpnd := rfl
@[simp] theorem State.setRdy_irqEn (s : State) (i : Nat) (b : Bool) : (s.setRdy i b).irqEn = s.irqEn := rfl
@[simp] theorem State.setRdy_clkdiv (s : State) (i : Nat) (b : Bool) : (s.setRdy i b).clkdiv = s.clkdiv := rfl
@[simp] theorem State.setRdy_bt (s : State) (i : Nat) (b : Bool) : (s.setRdy i b).bt = s.bt := rfl
@[simp] theorem State.setRdy_xfer (s : State) (i : Nat) (b : Bool) : (s.setRdy i b).xfer = s.xfer := rfl
@[simp] theorem State.setRdy_inited (s : State) (i : Nat) (b : Bool) : (s.setRdy i b).inited = s.inited := rfl
@[simp] theorem State.setRdy_fg (s : State) (i : Nat) (b : Bool) : (s.setRdy i b).fg = s.fg := rfl
@[simp] theorem State.setRdy_ports (s : State) (i : Nat) (b : Bool) : (s.setRdy i b).ports = s.ports := rfl
@[simp] theorem State.setRdy_busTx (s : State) (i : Nat) (b : Bool) : (s.setRdy i b).busTx = s.busTx := rfl
@[simp] theorem State.setRdy_rxOut (s : State) (i : Nat) (b : Bool) : (s.setRdy i b).rxOut = s.rxOut := rfl
@[simp] theorem State.setRdy_txLost (s : State) (i : Nat) (b : Bool) : (s.setRdy i b).txLost = s.txLost := rfl
@[simp] theorem State.setRdy_faults (s : State) (i : Nat) (b : Bool) : (s.setRdy i b).faults = s.faults := rfl
@[simp] theorem State.setRdy_refused (s : State) (i : Nat) (b : Bool) : (s.setRdy i b).refused = s.refused := rfl
@[simp] theorem State.setRdy_txSeq (s : State) (i : Nat) (b : Bool) : (s.setRdy i b).txSeq = s.txSeq := rfl
@[simp] theorem State.setRdy_issuer (s : State) (i : Nat) (b : Bool) : (s.setRdy i b).issuer = s.issuer := rfl
@[simp] theorem State.setRdy_inputs (s : State) (i : Nat) (b : Bool) : (s.setRdy i b).inputs = s.inputs := rfl
@[simp] theorem State.setRdy_draws (s : State) (i : Nat) (b : Bool) : (s.setRdy i b).draws = s.draws := rfl
@[simp] theorem State.setRdy_moAt (s : State) (i : Nat) (b : Bool) (j : Nat) : (s.setRdy i b).moAt j = s.moAt j := rfl
@[simp] theorem State.setRdy_shAt (s : State) (i : Nat) (b : Bool) (j : Nat) : (s.setRdy i b).shAt j = s.shAt j := rfl
@[simp] theorem State.setRdy_inuseAt (s : State) (i : Nat) (b : Bool) (j : Nat) : (s.setRdy i b).inuseAt j = s.inuseAt j := rfl
@[simp] theorem State.setRdy_slotPending (s : State) (i : Nat) (b : Bool) (j : Nat) : (s.setRdy i b).slotPending j = s.slotPending j := rfl
@[simp] theorem State.setRdy_ringAt (s : State) (i : Nat) (b : Bool) (j : Nat) : (s.setRdy i b).ringAt j = s.ringAt j := rfl
@[simp] theorem State.setRdy_txPending (s : State) (i : Nat) (b : Bool) (j : Nat) : (s.setRdy i b).txPending j = s.txPending j := rfl
@[simp] theorem State.setRdy_freeRxSlot (s : State) (i : Nat) (b : Bool) : (s.setRdy i b).freeRxSlot = s.freeRxSlot := rfl
@[simp] theorem State.setRdy_freeTxSlot (s : State) (i : Nat) (b : Bool) : (s.setRdy i b).freeTxSlot = s.freeTxSlot := rfl
@[simp] theorem State.setRdy_onBus (s : State) (i : Nat) (b : Bool) : (s.setRdy i b).onBus = s.onBus := rfl
@[simp] theorem State.setRdy_waiting (s : State) (i : Nat) (b : Bool) : (s.setRdy i b).waiting = s.waiting := rfl
@[simp] theorem State.setRdy_masked (s : State) (i : Nat) (b : Bool) : (s.setRdy i b).masked = s.masked := rfl
@[simp] theorem State.setRdy_initialising (s : State) (i : Nat) (b : Bool) : (s.setRdy i b).initialising = s.initialising := rfl

/-! ## setInuse -/

@[simp] theorem State.setInuse_cfg (s : State) (i : Nat) : (s.setInuse i).cfg = s.cfg := rfl
@[simp] theorem State.setInuse_mo (s : State) (i : Nat) : (s.setInuse i).mo = s.mo := rfl
@[simp] theorem State.setInuse_inuse (s : State) (i : Nat) : (s.setInuse i).inuse = s.inuse.set i true := rfl
@[simp] theorem State.setInuse_rdy (s : State) (i : Nat) : (s.setInuse i).rdy = s.rdy := rfl
@[simp] theorem State.setInuse_sh (s : State) (i : Nat) : (s.setInuse i).sh = s.sh := rfl
@[simp] theorem State.setInuse_q (s : State) (i : Nat) : (s.setInuse i).q = s.q := rfl
@[simp] theorem State.setInuse_cnt (s : State) (i : Nat) : (s.setInuse i).cnt = s.cnt := rfl
@[simp] theorem State.setInuse_ctrl (s : State) (i : Nat) : (s.setInuse i).ctrl = s.ctrl := rfl
@[simp] theorem State.setInuse_stat (s : State) (i : Nat) : (s.setInuse i).stat = s.stat := rfl
@[simp] theorem State.setInuse_intpnd (s : State) (i : Nat) : (s.setInuse i).intpnd = s.intpnd := rfl
@[simp] theorem State.setInuse_irqEn (s : State) (i : Nat) : (s.setInuse i).irqEn = s.irqEn := rfl
@[simp] theorem State.setInuse_clkdiv (s : State) (i : Nat) : (s.setInuse i).clkdiv = s.clkdiv := rfl
@[simp] theorem State.setInuse_bt (s : State) (i : Nat) : (s.setInuse i).bt = s.bt := rfl
@[simp] theorem State.setInuse_xfer (s : State) (i : Nat) : (s.setInuse i).xfer = s.xfer := rfl
@[simp] theorem State.setInuse_inited (s : State) (i : Nat) : (s.setInuse i).inited = s.inited := rfl
@[simp] theorem State.setInuse_fg (s : State) (i : Nat) : (s.setInuse i).fg = s.fg := rfl
@[simp] theorem State.setInuse_ports (s : State) (i : Nat) : (s.setInuse i).ports = s.ports := rfl
@[simp] theorem State.setInuse_busTx (s : State) (i : Nat) : (s.setInuse i).busTx = s.busTx := rfl
@[simp] theorem State.setInuse_rxOut (s : State) (i : Nat) : (s.setInuse i).rxOut = s.rxOut := rfl
@[simp] theorem State.setInuse_txLost (s : State) (i : Nat) : (s.setInuse i).txLost = s.txLost := rfl
@[simp] theorem State.setInuse_faults (s : State) (i : Nat) : (s.setInuse i).faults = s.faults := rfl
@[simp] theorem State.setInuse_refused (s : State) (i : Nat) : (s.setInuse i).refused = s.refused := rfl
@[simp] theorem State.setInuse_txSeq (s : State) (i : Nat) : (s.setInuse i).txSeq = s.txSeq := rfl
@[simp] theorem State.setInuse_issuer (s : State) (i : Nat) : (s.setInuse i).issuer = s.issuer := rfl
@[simp] theorem State.setInuse_inputs (s : State) (i : Nat) : (s.setInuse i).inputs = s.inputs := rfl
@[simp] theorem State.setInuse_draws (s : State) (i : Nat) : (s.setInuse i).draws = s.draws := rfl
@[simp] theorem State.setInuse_moAt (s : State) (i : Nat) (j : Nat) : (s.setInuse i).moAt j = s.moAt j := rfl
@[simp] theorem State.setInuse_shAt (s : State) (i : Nat) (j : Nat) : (s.setInuse i).shAt j = s.shAt j := rfl
@[simp] theorem State.setInuse_rdyAt (s : State) (i : Nat) (j : Nat) : (s.setInuse i).rdyAt j = s.rdyAt j := rfl
@[simp] theorem State.setInuse_slotPending (s : State) (i : Nat) (j : Nat) : (s.setInuse i).slotPending j = s.slotPending j := rfl
@[simp] theorem State.setInuse_ringAt (s : State) (i : Nat) (j : Nat) : (s.setInuse i).ringAt j = s.ringAt j := rfl
@[simp] theorem State.setInuse_txPending (s : State) (i : Nat) (j : Nat) : (s.setInuse i).txPending j = s.txPending j := rfl
@[simp] theorem State.setInuse_freeTxSlot (s : State) (i : Nat) : (s.setInuse i).freeTxSlot = s.freeTxSlot := rfl
@[simp] theorem State.setInuse_onBus (s : State) (i : Nat) : (s.setInuse i).onBus = s.onBus := rfl
@[simp] theorem State.setInuse_waiting (s : State) (i : Nat) : (s.setInuse i).waiting = s.waiting := rfl
@[simp] theorem State.setInuse_masked (s : State) (i : Nat) : (s.setInuse i).masked = s.masked := rfl
@[simp] theorem State.setInuse_initialising (s : State) (i : Nat) : (s.setInuse i).initialising = s.initialising := rfl

/-! ## setSlotPending -/

@[simp] theorem State.setSlotPending_cfg (s : State) (i : Nat) (b : Bool) : (s.setSlotPending i b).cfg = s.cfg := rfl
@[simp] theorem State.setSlotPending_mo (s : State) (i : Nat) (b : Bool) : (s.setSlotPending i b).mo = s.mo := rfl
@[simp] theorem State.setSlotPending_inuse (s : State) (i : Nat) (b : Bool) : (s.setSlotPending i b).inuse = s.inuse := rfl
@[simp] theorem State.setSlotPending_rdy (s : State) (i : Nat) (b : Bool) : (s.setSlotPending i b).rdy = s.rdy := rfl
@[simp] theorem State.setSlotPending_sh (s : State) (i : Nat) (b : Bool) : (s.setSlotPending i b).sh = s.sh := rfl
@[simp] theorem State.setSlotPending_q (s : State) (i : Nat) (b : Bool) : (s.setSlotPending i b).q = s.q := rfl
@[simp] theorem State.setSlotPending_cnt (s : State) (i : Nat) (b : Bool) : (s.setSlotPending i b).cnt = s.cnt := rfl
@[simp] theorem State.setSlotPending_ctrl (s : State) (i : Nat) (b : Bool) : (s.setSlotPending i b).ctrl = s.ctrl := rfl
@[simp] theorem State.setSlotPending_stat (s : State) (i : Nat) (b : Bool) : (s.setSlotPending i b).stat = s.stat := rfl
@[simp] theorem State.setSlotPending_intpnd (s : State) (i : Nat) (b : Bool) : (s.setSlotPending i b).intpnd = { s.intpnd with slot := s.intpnd.slot.set i b } := rfl
@[simp] theorem State.setSlotPending_irqEn (s : State) (i : Nat) (b : Bool) : (s.setSlotPending i b).irqEn = s.irqEn := rfl
@[simp] theorem State.setSlotPending_clkdiv (s : State) (i : Nat) (b : Bool) : (s.setSlotPending i b).clkdiv = s.clkdiv := rfl
@[simp] theorem State.setSlotPending_bt (s : State) (i : Nat) (b : Bool) : (s.setSlotPending i b).bt = s.bt := rfl
@[simp] theorem State.setSlotPending_xfer (s : State) (i : Nat) (b : Bool) : (s.setSlotPending i b).xfer = s.xfer := rfl
@[simp] theorem State.setSlotPending_inited (s : State) (i : Nat) (b : Bool) : (s.setSlotPending i b).inited = s.inited := rfl
@[simp] theorem State.setSlotPending_fg (s : State) (i : Nat) (b : Bool) : (s.setSlotPending i b).fg = s.fg := rfl
@[simp] theorem State.setSlotPending_ports (s : State) (i : Nat) (b : Bool) : (s.setSlotPending i b).ports = s.ports := rfl
@[simp] theorem State.setSlotPending_busTx (s : State) (i : Nat) (b : Bool) : (s.setSlotPending i b).busTx = s.busTx := rfl
@[simp] theorem State.setSlotPending_rxOut (s : State) (i : Nat) (b : Bool) : (s.setSlotPending i b).rxOut = s.rxOut := rfl
@[simp] theorem State.setSlotPending_txLost (s : State) (i : Nat) (b : Bool) : (s.setSlotPending i b).txLost = s.txLost := rfl
@[simp] theorem State.setSlotPending_faults (s : State) (i : Nat) (b : Bool) : (s.setSlotPending i b).faults = s.faults := rfl
@[simp] theorem State.setSlotPending_refused (s : State) (i : Nat) (b : Bool) : (s.setSlotPending i b).refused = s.refused := rfl
@[simp] theorem State.setSlotPending_txSeq (s : State) (i : Nat) (b : Bool) : (s.setSlotPending i b).txSeq = s.txSeq := rfl
@[simp] theorem State.setSlotPending_issuer (s : State) (i : Nat) (b : Bool) : (s.setSlotPending i b).issuer = s.issuer := rfl
@[simp] theorem State.setSlotPending_inputs (s : State) (i : Nat) (b : Bool) : (s.setSlotPending i b).inputs = s.inputs := rfl
@[simp] theorem State.setSlotPending_draws (s : State) (i : Nat) (b : Bool) : (s.setSlotPending i b).draws = s.draws := rfl
@[simp] theorem State.setSlotPending_moAt (s : State) (i : Nat) (b : Bool) (j : Nat) : (s.setSlotPending i b).moAt j = s.moAt j := rfl
@[simp] theorem State.setSlotPending_shAt (s : State) (i : Nat) (b : Bool) (j : Nat) : (s.setSlotPending i b).shAt j = s.shAt j := rfl
@[simp] theorem State.setSlotPending_rdyAt (s : State) (i : Nat) (b : Bool) (j : Nat) : (s.setSlotPending i b).rdyAt j = s.rdyAt j := rfl
@[simp] theorem State.setSlotPending_inuseAt (s : State) (i : Nat) (b : Bool) (j : Nat) : (s.setSlotPending i b).inuseAt j = s.inuseAt j := rfl
@[simp] theorem State.setSlotPending_ringAt (s : State) (i : Nat) (b : Bool) (j : Nat) : (s.setSlotPending i b).ringAt j = s.ringAt j := rfl
@[simp] theorem State.setSlotPending_txPending (s : State) (i : Nat) (b : Bool) (j : Nat) : (s.setSlotPending i b).txPending j = s.txPending j := rfl
@[simp] theorem State.setSlotPending_freeRxSlot (s : State) (i : Nat) (b : Bool) : (s.setSlotPending i b).freeRxSlot = s.freeRxSlot := rfl
@[simp] theorem State.setSlotPending_freeTxSlot (s : State) (i : Nat) (b : Bool) : (s.setSlotPending i b).freeTxSlot = s.freeTxSlot := rfl
@[simp] theorem State.setSlotPending_onBus (s : State) (i : Nat) (b : Bool) : (s.setSlotPending i b).onBus = s.onBus := rfl
@[simp] theorem State.setSlotPending_waiting (s : State) (i : Nat) (b : Bool) : (s.setSlotPending i b).waiting = s.waiting := rfl
@[simp] theorem State.setSlotPending_masked (s : State) (i : Nat) (b : Bool) : (s.setSlotPending i b).masked = s.masked := rfl
@[simp] theorem State.setSlotPending_initialising (s : State) (i : Nat) (b : Bool) : (s.setSlotPending i b).initialising = s.initialising := rfl

/-! ## setStatusPending -/

@[simp] theorem State.setStatusPending_cfg (s : State) (b : Bool) : (s.setStatusPending b).cfg = s.cfg := rfl
@[simp] theorem State.setStatusPending_mo (s : State) (b : Bool) : (s.setStatusPending b).mo = s.mo := rfl
@[simp] theorem State.setStatusPending_inuse (s : State) (b : Bool) : (s.setStatusPending b).inuse = s.inuse := rfl
@[simp] theorem State.setStatusPending_rdy (s : State) (b : Bool) : (s.setStatusPending b).rdy = s.rdy := rfl
@[simp] theorem State.setStatusPending_sh (s : State) (b : Bool) : (s.setStatusPending b).sh = s.sh := rfl
@[simp] theorem State.setStatusPending_q (s : State) (b : Bool) : (s.setStatusPending b).q = s.q := rfl
@[simp] theorem State.setStatusPending_cnt (s : State) (b : Bool) : (s.setStatusPending b).cnt = s.cnt := rfl
@[simp] theorem State.setStatusPending_ctrl (s : State) (b : Bool) : (s.setStatusPending b).ctrl = s.ctrl := rfl
@[simp] theorem State.setStatusPending_stat (s : State) (b : Bool) : (s.setStatusPending b).stat = s.stat := rfl
@[simp] theorem State.setStatusPending_intpnd (s : State) (b : Bool) : (s.setStatusPending b).intpnd = { s.intpnd with status := b } := rfl
@[simp] theorem State.setStatusPending_irqEn (s : State) (b : Bool) : (s.setStatusPending b).irqEn = s.irqEn := rfl
@[simp] theorem State.setStatusPending_clkdiv (s : State) (b : Bool) : (s.setStatusPending b).clkdiv = s.clkdiv := rfl
@[simp] theorem State.setStatusPending_bt (s : State) (b : Bool) : (s.setStatusPending b).bt = s.bt := rfl
@[simp] theorem State.setStatusPending_xfer (s : State) (b : Bool) : (s.setStatusPending b).xfer = s.xfer := rfl
@[simp] theorem State.setStatusPending_inited (s : State) (b : Bool) : (s.setStatusPending b).inited = s.inited := rfl
@[simp] theorem State.setStatusPending_fg (s : State) (b : Bool) : (s.setStatusPending b).fg = s.fg := rfl
@[simp] theorem State.setStatusPending_ports (s : State) (b : Bool) : (s.setStatusPending b).ports = s.ports := rfl
@[simp] theorem State.setStatusPending_busTx (s : State) (b : Bool) : (s.setStatusPending b).busTx = s.busTx := rfl
@[simp] theorem State.setStatusPending_rxOut (s : State) (b : Bool) : (s.setStatusPending b).rxOut = s.rxOut := rfl
@[simp] theorem State.setStatusPending_txLost (s : State) (b : Bool) : (s.setStatusPending b).txLost = s.txLost := rfl
@[simp] theorem State.setStatusPending_faults (s : State) (b : Bool) : (s.setStatusPending b).faults = s.faults := rfl
@[simp] theorem State.setStatusPending_refused (s : State) (b : Bool) : (s.setStatusPending b).refused = s.refused := rfl
@[simp] theorem State.setStatusPending_txSeq (s : State) (b : Bool) : (s.setStatusPending b).txSeq = s.txSeq := rfl
@[simp] theorem State.setStatusPending_issuer (s : State) (b : Bool) : (s.setStatusPending b).issuer = s.issuer := rfl
@[simp] theorem State.setStatusPending_inputs (s : State) (b : Bool) : (s.setStatusPending b).inputs = s.inputs := rfl
@[simp] theorem State.setStatusPending_draws (s : State) (b : Bool) : (s.setStatusPending b).draws = s.draws := rfl
@[simp] theorem State.setStatusPending_moAt (s : State) (b : Bool) (j : Nat) : (s.setStatusPending b).moAt j = s.moAt j := rfl
@[simp] theorem State.setStatusPending_shAt (s : State) (b : Bool) (j : Nat) : (s.setStatusPending b).shAt j = s.shAt j := rfl
@[simp] theorem State.setStatusPending_rdyAt (s : State) (b : Bool) (j : Nat) : (s.setStatusPending b).rdyAt j = s.rdyAt j := rfl
@[simp] theorem State.setStatusPending_inuseAt (s : State) (b : Bool) (j : Nat) : (s.setStatusPending b).inuseAt j = s.inuseAt j := rfl
@[simp] theorem State.setStatusPending_ringAt (s : State) (b : Bool) (j : Nat) : (s.setStatusPending b).ringAt j = s.ringAt j := rfl
@[simp] theorem State.setStatusPending_txPending (s : State) (b : Bool) (j : Nat) : (s.setStatusPending b).txPending j = s.txPending j := rfl
@[simp] theorem State.setStatusPending_freeRxSlot (s : State) (b : Bool) : (s.setStatusPending b).freeRxSlot = s.freeRxSlot := rfl
@[simp] theorem State.setStatusPending_freeTxSlot (s : State) (b : Bool) : (s.setStatusPending b).freeTxSlot = s.freeTxSlot := rfl
@[simp] theorem State.setStatusPending_onBus (s : State) (b : Bool) : (s.setStatusPending b).onBus = s.onBus := rfl
@[simp] theorem State.setStatusPending_waiting (s : State) (b : Bool) : (s.setStatusPending b).waiting = s.waiting := rfl
@[simp] theorem State.setStatusPending_masked (s : State) (b : Bool) : (s.setStatusPending b).masked = s.masked := rfl
@[simp] theorem State.setStatusPending_initialising (s : State) (b : Bool) : (s.setStatusPending b).initialising = s.initialising := rfl

/-! ## setHalt -/

@[simp] theorem State.setHalt_cfg (s : State) (b : Bool) : (s.setHalt b).cfg = s.cfg := rfl
@[simp] theorem State.setHalt_mo (s : State) (b : Bool) : (s.setHalt b).mo = s.mo := rfl
@[simp] theorem State.setHalt_inuse (s : State) (b : Bool) : (s.setHalt b).inuse = s.inuse := rfl
@[simp] theorem State.setHalt_rdy (s : State) (b : Bool) : (s.setHalt b).rdy = s.rdy := rfl
@[simp] theorem State.setHalt_sh (s : State) (b : Bool) : (s.setHalt b).sh = s.sh := rfl
@[simp] theorem State.setHalt_q (s : State) (b : Bool) : (s.setHalt b).q = s.q := rfl
@[simp] theorem State.setHalt_cnt (s : State) (b : Bool) : (s.setHalt b).cnt = s.cnt := rfl
@[simp] theorem State.setHalt_ctrl (s : State) (b : Bool) : (s.setHalt b).ctrl = { s.ctrl with init := b } := rfl
@[simp] theorem State.setHalt_stat (s : State) (b : Bool) : (s.setHalt b).stat = s.stat := rfl
@[simp] theorem State.setHalt_intpnd (s : State) (b : Bool) : (s.setHalt b).intpnd = s.intpnd := rfl
@[simp] theorem State.setHalt_irqEn (s : State) (b : Bool) : (s.setHalt b).irqEn = s.irqEn := rfl
@[simp] theorem State.setHalt_clkdiv (s : State) (b : Bool) : (s.setHalt b).clkdiv = s.clkdiv := rfl
@[simp] theorem State.setHalt_bt (s : State) (b : Bool) : (s.setHalt b).bt = s.bt := rfl
@[simp] theorem State.setHalt_xfer (s : State) (b : Bool) : (s.setHalt b).xfer = s.xfer := rfl
@[simp] theorem State.setHalt_inited (s : State) (b : Bool) : (s.setHalt b).inited = s.inited := rfl
@[simp] theorem State.setHalt_fg (s : State) (b : Bool) : (s.setHalt b).fg = s.fg := rfl
@[simp] theorem State.setHalt_ports (s : State) (b : Bool) : (s.setHalt b).ports = s.ports := rfl
@[simp] theorem State.setHalt_busTx (s : State) (b : Bool) : (s.setHalt b).busTx = s.busTx := rfl
@[simp] theorem State.setHalt_rxOut (s : State) (b : Bool) : (s.setHalt b).rxOut = s.rxOut := rfl
@[simp] theorem State.setHalt_txLost (s : State) (b : Bool) : (s.setHalt b).txLost = s.txLost := rfl
@[simp] theorem State.setHalt_faults (s : State) (b : Bool) : (s.setHalt b).faults = s.faults := rfl
@[simp] theorem State.setHalt_refused (s : State) (b : Bool) : (s.setHalt b).refused = s.refused := rfl
@[simp] theorem State.setHalt_txSeq (s : State) (b : Bool) : (s.setHalt b).txSeq = s.txSeq := rfl
@[simp] theorem State.setHalt_issuer (s : State) (b : Bool) : (s.setHalt b).issuer = s.issuer := rfl
@[simp] theorem State.setHalt_inputs (s : State) (b : Bool) : (s.setHalt b).inputs = s.inputs := rfl
@[simp] theorem State.setHalt_draws (s : State) (b : Bool) : (s.setHalt b).draws = s.draws := rfl
@[simp] theorem State.setHalt_moAt (s : State) (b : Bool) (j : Nat) : (s.setHalt b).moAt j = s.moAt j := rfl
@[simp] theorem State.setHalt_shAt (s : State) (b : Bool) (j : Nat) : (s.setHalt b).shAt j = s.shAt j := rfl
@[simp] theorem State.setHalt_rdyAt (s : State) (b : Bool) (j : Nat) : (s.setHalt b).rdyAt j = s.rdyAt j := rfl
@[simp] theorem State.setHalt_inuseAt (s : State) (b : Bool) (j : Nat) : (s.setHalt b).inuseAt j = s.inuseAt j := rfl
@[simp] theorem State.setHalt_slotPending (s : State) (b : Bool) (j : Nat) : (s.setHalt b).slotPending j = s.slotPending j := rfl
@[simp] theorem State.setHalt_ringAt (s : State) (b : Bool) (j : Nat) : (s.setHalt b).ringAt j = s.ringAt j := rfl
@[simp] theorem State.setHalt_txPending (s : State) (b : Bool) (j : Nat) : (s.setHalt b).txPending j = s.txPending j := rfl
@[simp] theorem State.setHalt_freeRxSlot (s : State) (b : Bool) : (s.setHalt b).freeRxSlot = s.freeRxSlot := rfl
@[simp] theorem State.setHalt_freeTxSlot (s : State) (b : Bool) : (s.setHalt b).freeTxSlot = s.freeTxSlot := rfl
@[simp] theorem State.setHalt_waiting (s : State) (b : Bool) : (s.setHalt b).waiting = s.waiting := rfl
@[simp] theorem State.setHalt_masked (s : State) (b : Bool) : (s.setHalt b).masked = s.masked := rfl
@[simp] theorem State.setHalt_initialising (s : State) (b : Bool) : (s.setHalt b).initialising = s.initialising := rfl

/-! ## goto -/

@[simp] theorem State.goto_cfg (s : State) (p : Fg) : (s.goto p).cfg = s.cfg := rfl
@[simp] theorem State.goto_mo (s : State) (p : Fg) : (s.goto p).mo = s.mo := rfl
@[simp] theorem State.goto_inuse (s : State) (p : Fg) : (s.goto p).inuse = s.inuse := rfl
@[simp] theorem State.goto_rdy (s : State) (p : Fg) : (s.goto p).rdy = s.rdy := rfl
@[simp] theorem State.goto_sh (s : State) (p : Fg) : (s.goto p).sh = s.sh := rfl
@[simp] theorem State.goto_q (s : State) (p : Fg) : (s.goto p).q = s.q := rfl
@[simp] theorem State.goto_cnt (s : State) (p : Fg) : (s.goto p).cnt = s.cnt := rfl
@[simp] theorem State.goto_ctrl (s : State) (p : Fg) : (s.goto p).ctrl = s.ctrl := rfl
@[simp] theorem State.goto_stat (s : State) (p : Fg) : (s.goto p).stat = s.stat := rfl
@[simp] theorem State.goto_intpnd (s : State) (p : Fg) : (s.goto p).intpnd = s.intpnd := rfl
@[simp] theorem State.goto_irqEn (s : State) (p : Fg) : (s.goto p).irqEn = s.irqEn := rfl
@[simp] theorem State.goto_clkdiv (s : State) (p : Fg) : (s.goto p).clkdiv = s.clkdiv := rfl
@[simp] theorem State.goto_bt (s : State) (p : Fg) : (s.goto p).bt = s.bt := rfl
@[simp] theorem State.goto_xfer (s : State) (p : Fg) : (s.goto p).xfer = s.xfer := rfl
@[simp] theorem State.goto_inited (s : State) (p : Fg) : (s.goto p).inited = s.inited := rfl
@[simp] theorem State.goto_fg (s : State) (p : Fg) : (s.goto p).fg = p := rfl
@[simp] theorem State.goto_ports (s : State) (p : Fg) : (s.goto p).ports = s.ports := rfl
@[simp] theorem State.goto_busTx (s : State) (p : Fg) : (s.goto p).busTx = s.busTx := rfl
@[simp] theorem State.goto_rxOut (s : State) (p : Fg) : (s.goto p).rxOut = s.rxOut := rfl
@[simp] theorem State.goto_txLost (s : State) (p : Fg) : (s.goto p).txLost = s.txLost := rfl
@[simp] theorem State.goto_faults (s : State) (p : Fg) : (s.goto p).faults = s.faults := rfl
@[simp] theorem State.goto_refused (s : State) (p : Fg) : (s.goto p).refused = s.refused := rfl
@[simp] theorem State.goto_txSeq (s : State) (p : Fg) : (s.goto p).txSeq = s.txSeq := rfl
@[simp] theorem State.goto_issuer (s : State) (p : Fg) : (s.goto p).issuer = s.issuer := rfl
@[simp] theorem State.goto_inputs (s : State) (p : Fg) : (s.goto p).inputs = s.inputs := rfl
@[simp] theorem State.goto_draws (s : State) (p : Fg) : (s.goto p).draws = s.draws := rfl
@[simp] theorem State.goto_moAt (s : State) (p : Fg) (j : Nat) : (s.goto p).moAt j = s.moAt j := rfl
@[simp] theorem State.goto_shAt (s : State) (p : Fg) (j : Nat) : (s.goto p).shAt j = s.shAt j := rfl
@[simp] theorem State.goto_rdyAt (s : State) (p : Fg) (j : Nat) : (s.goto p).rdyAt j = s.rdyAt j := rfl
@[simp] theorem State.goto_inuseAt (s : State) (p : Fg) (j : Nat) : (s.goto p).inuseAt j = s.inuseAt j := rfl
@[simp] theorem State.goto_slotPending (s : State) (p : Fg) (j : Nat) : (s.goto p).slotPending j = s.slotPending j := rfl
@[simp] theorem State.goto_ringAt (s : State) (p : Fg) (j : Nat) : (s.goto p).ringAt j = s.ringAt j := rfl
@[simp] theorem State.goto_txPending (s : State) (p : Fg) (j : Nat) : (s.goto p).txPending j = s.txPending j := rfl
@[simp] theorem State.goto_freeRxSlot (s : State) (p : Fg) : (s.goto p).freeRxSlot = s.freeRxSlot := rfl
@[simp] theorem State.goto_freeTxSlot (s : State) (p : Fg) : (s.goto p).freeTxSlot = s.freeTxSlot := rfl
@[simp] theorem State.goto_onBus (s : State) (p : Fg) : (s.goto p).onBus = s.onBus := rfl

/-! ## raiseRefuse -/

@[simp] theorem State.raiseRefuse_cfg (s : State) (r : RefuseReason) : (s.raiseRefuse r).cfg = s.cfg := rfl
@[simp] theorem State.raiseRefuse_mo (s : State) (r : RefuseReason) : (s.raiseRefuse r).mo = s.mo := rfl
@[simp] theorem State.raiseRefuse_inuse (s : State) (r : RefuseReason) : (s.raiseRefuse r).inuse = s.inuse := rfl
@[simp] theorem State.raiseRefuse_rdy (s : State) (r : RefuseReason) : (s.raiseRefuse r).rdy = s.rdy := rfl
@[simp] theorem State.raiseRefuse_sh (s : State) (r : RefuseReason) : (s.raiseRefuse r).sh = s.sh := rfl
@[simp] theorem State.raiseRefuse_q (s : State) (r : RefuseReason) : (s.raiseRefuse r).q = s.q := rfl
@[simp] theorem State.raiseRefuse_cnt (s : State) (r : RefuseReason) : (s.raiseRefuse r).cnt = s.cnt := rfl
@[simp] theorem State.raiseRefuse_ctrl (s : State) (r : RefuseReason) : (s.raiseRefuse r).ctrl = s.ctrl := rfl
@[simp] theorem State.raiseRefuse_stat (s : State) (r : RefuseReason) : (s.raiseRefuse r).stat = s.stat := rfl
@[simp] theorem State.raiseRefuse_intpnd (s : State) (r : RefuseReason) : (s.raiseRefuse r).intpnd = s.intpnd := rfl
@[simp] theorem State.raiseRefuse_irqEn (s : State) (r : RefuseReason) : (s.raiseRefuse r).irqEn = s.irqEn := rfl
@[simp] theorem State.raiseRefuse_clkdiv (s : State) (r : RefuseReason) : (s.raiseRefuse r).clkdiv = s.clkdiv := rfl
@[simp] theorem State.raiseRefuse_bt (s : State) (r : RefuseReason) : (s.raiseRefuse r).bt = s.bt := rfl
@[simp] theorem State.raiseRefuse_xfer (s : State) (r : RefuseReason) : (s.raiseRefuse r).xfer = s.xfer := rfl
@[simp] theorem State.raiseRefuse_inited (s : State) (r : RefuseReason) : (s.raiseRefuse r).inited = s.inited := rfl
@[simp] theorem State.raiseRefuse_fg (s : State) (r : RefuseReason) : (s.raiseRefuse r).fg = s.fg := rfl
@[simp] theorem State.raiseRefuse_ports (s : State) (r : RefuseReason) : (s.raiseRefuse r).ports = s.ports := rfl
@[simp] theorem State.raiseRefuse_busTx (s : State) (r : RefuseReason) : (s.raiseRefuse r).busTx = s.busTx := rfl
@[simp] theorem State.raiseRefuse_rxOut (s : State) (r : RefuseReason) : (s.raiseRefuse r).rxOut = s.rxOut := rfl
@[simp] theorem State.raiseRefuse_txLost (s : State) (r : RefuseReason) : (s.raiseRefuse r).txLost = s.txLost := rfl
@[simp] theorem State.raiseRefuse_faults (s : State) (r : RefuseReason) : (s.raiseRefuse r).faults = s.faults := rfl
@[simp] theorem State.raiseRefuse_refused (s : State) (r : RefuseReason) : (s.raiseRefuse r).refused = some r := rfl
@[simp] theorem State.raiseRefuse_txSeq (s : State) (r : RefuseReason) : (s.raiseRefuse r).txSeq = s.txSeq := rfl
@[simp] theorem State.raiseRefuse_issuer (s : State) (r : RefuseReason) : (s.raiseRefuse r).issuer = s.issuer := rfl
@[simp] theorem State.raiseRefuse_inputs (s : State) (r : RefuseReason) : (s.raiseRefuse r).inputs = s.inputs := rfl
@[simp] theorem State.raiseRefuse_draws (s : State) (r : RefuseReason) : (s.raiseRefuse r).draws = s.draws := rfl
@[simp] theorem State.raiseRefuse_moAt (s : State) (r : RefuseReason) (j : Nat) : (s.raiseRefuse r).moAt j = s.moAt j := rfl
@[simp] theorem State.raiseRefuse_shAt (s : State) (r : RefuseReason) (j : Nat) : (s.raiseRefuse r).shAt j = s.shAt j := rfl
@[simp] theorem State.raiseRefuse_rdyAt (s : State) (r : RefuseReason) (j : Nat) : (s.raiseRefuse r).rdyAt j = s.rdyAt j := rfl
@[simp] theorem State.raiseRefuse_inuseAt (s : State) (r : RefuseReason) (j : Nat) : (s.raiseRefuse r).inuseAt j = s.inuseAt j := rfl
@[simp] theorem State.raiseRefuse_slotPending (s : State) (r : RefuseReason) (j : Nat) : (s.raiseRefuse r).slotPending j = s.slotPending j := rfl
@[simp] theorem State.raiseRefuse_ringAt (s : State) (r : RefuseReason) (j : Nat) : (s.raiseRefuse r).ringAt j = s.ringAt j := rfl
@[simp] theorem State.raiseRefuse_txPending (s : State) (r : RefuseReason) (j : Nat) : (s.raiseRefuse r).txPending j = s.txPending j := rfl
@[simp] theorem State.raiseRefuse_freeRxSlot (s : State) (r : RefuseReason) : (s.raiseRefuse r).freeRxSlot = s.freeRxSlot := rfl
@[simp] theorem State.raiseRefuse_freeTxSlot (s : State) (r : RefuseReason) : (s.raiseRefuse r).freeTxSlot = s.freeTxSlot := rfl
@[simp] theorem State.raiseRefuse_onBus (s : State) (r : RefuseReason) : (s.raiseRefuse r).onBus = s.onBus := rfl
@[simp] theorem State.raiseRefuse_waiting (s : State) (r : RefuseReason) : (s.raiseRefuse r).waiting = s.waiting := rfl
@[simp] theorem State.raiseRefuse_masked (s : State) (r : RefuseReason) : (s.raiseRefuse r).masked = s.masked := rfl
@[simp] theorem State.raiseRefuse_initialising (s : State) (r : RefuseReason) : (s.raiseRefuse r).initialising = s.initialising := rfl

/-! ## raiseCounterOverflow -/

@[simp] theorem State.raiseCounterOverflow_cfg (s : State) : s.raiseCounterOverflow.cfg = s.cfg := rfl
@[simp] theorem State.raiseCounterOverflow_mo (s : State) : s.raiseCounterOverflow.mo = s.mo := rfl
@[simp] theorem State.raiseCounterOverflow_inuse (s : State) : s.raiseCounterOverflow.inuse = s.inuse := rfl
@[simp] theorem State.raiseCounterOverflow_rdy (s : State) : s.raiseCounterOverflow.rdy = s.rdy := rfl
@[simp] theorem State.raiseCounterOverflow_sh (s : State) : s.raiseCounterOverflow.sh = s.sh := rfl
@[simp] theorem State.raiseCounterOverflow_q (s : State) : s.raiseCounterOverflow.q = s.q := rfl
@[simp] theorem State.raiseCounterOverflow_cnt (s : State) : s.raiseCounterOverflow.cnt = s.cnt := rfl
@[simp] theorem State.raiseCounterOverflow_ctrl (s : State) : s.raiseCounterOverflow.ctrl = s.ctrl := rfl
@[simp] theorem State.raiseCounterOverflow_stat (s : State) : s.raiseCounterOverflow.stat = s.stat := rfl
@[simp] theorem State.raiseCounterOverflow_intpnd (s : State) : s.raiseCounterOverflow.intpnd = s.intpnd := rfl
@[simp] theorem State.raiseCounterOverflow_irqEn (s : State) : s.raiseCounterOverflow.irqEn = s.irqEn := rfl
@[simp] theorem State.raiseCounterOverflow_clkdiv (s : State) : s.raiseCounterOverflow.clkdiv = s.clkdiv := rfl
@[simp] theorem State.raiseCounterOverflow_bt (s : State) : s.raiseCounterOverflow.bt = s.bt := rfl
@[simp] theorem State.raiseCounterOverflow_xfer (s : State) : s.raiseCounterOverflow.xfer = s.xfer := rfl
@[simp] theorem State.raiseCounterOverflow_inited (s : State) : s.raiseCounterOverflow.inited = s.inited := rfl
@[simp] theorem State.raiseCounterOverflow_fg (s : State) : s.raiseCounterOverflow.fg = s.fg := rfl
@[simp] theorem State.raiseCounterOverflow_ports (s : State) : s.raiseCounterOverflow.ports = s.ports := rfl
@[simp] theorem State.raiseCounterOverflow_busTx (s : State) : s.raiseCounterOverflow.busTx = s.busTx := rfl
@[simp] theorem State.raiseCounterOverflow_rxOut (s : State) : s.raiseCounterOverflow.rxOut = s.rxOut := rfl
@[simp] theorem State.raiseCounterOverflow_txLost (s : State) : s.raiseCounterOverflow.txLost = s.txLost := rfl
@[simp] theorem State.raiseCounterOverflow_faults (s : State) : s.raiseCounterOverflow.faults = { s.faults with counterOverflow := true } := rfl
@[simp] theorem State.raiseCounterOverflow_refused (s : State) : s.raiseCounterOverflow.refused = s.refused := rfl
@[simp] theorem State.raiseCounterOverflow_txSeq (s : State) : s.raiseCounterOverflow.txSeq = s.txSeq := rfl
@[simp] theorem State.raiseCounterOverflow_issuer (s : State) : s.raiseCounterOverflow.issuer = s.issuer := rfl
@[simp] theorem State.raiseCounterOverflow_inputs (s : State) : s.raiseCounterOverflow.inputs = s.inputs := rfl
@[simp] theorem State.raiseCounterOverflow_draws (s : State) : s.raiseCounterOverflow.draws = s.draws := rfl
@[simp] theorem State.raiseCounterOverflow_moAt (s : State) (j : Nat) : s.raiseCounterOverflow.moAt j = s.moAt j := rfl
@[simp] theorem State.raiseCounterOverflow_shAt (s : State) (j : Nat) : s.raiseCounterOverflow.shAt j = s.shAt j := rfl
@[simp] theorem State.raiseCounterOverflow_rdyAt (s : State) (j : Nat) : s.raiseCounterOverflow.rdyAt j = s.rdyAt j := rfl
@[simp] theorem State.raiseCounterOverflow_inuseAt (s : State) (j : Nat) : s.raiseCounterOverflow.inuseAt j = s.inuseAt j := rfl
@[simp] theorem State.raiseCounterOverflow_slotPending (s : State) (j : Nat) : s.raiseCounterOverflow.slotPending j = s.slotPending j := rfl
@[simp] theorem State.raiseCounterOverflow_ringAt (s : State) (j : Nat) : s.raiseCounterOverflow.ringAt j = s.ringAt j := rfl
@[simp] theorem State.raiseCounterOverflow_txPending (s : State) (j : Nat) : s.raiseCounterOverflow.txPending j = s.txPending j := rfl
@[simp] theorem State.raiseCounterOverflow_freeRxSlot (s : State) : s.raiseCounterOverflow.freeRxSlot = s.freeRxSlot := rfl
@[simp] theorem State.raiseCounterOverflow_freeTxSlot (s : State) : s.raiseCounterOverflow.freeTxSlot = s.freeTxSlot := rfl
@[simp] theorem State.raiseCounterOverflow_onBus (s : State) : s.raiseCounterOverflow.onBus = s.onBus := rfl
@[simp] theorem State.raiseCounterOverflow_waiting (s : State) : s.raiseCounterOverflow.waiting = s.waiting := rfl
@[simp] theorem State.raiseCounterOverflow_masked (s : State) : s.raiseCounterOverflow.masked = s.masked := rfl
@[simp] theorem State.raiseCounterOverflow_initialising (s : State) : s.raiseCounterOverflow.initialising = s.initialising := rfl

/-! ## raiseHandshakeStall -/

@[simp] theorem State.raiseHandshakeStall_cfg (s : State) : s.raiseHandshakeStall.cfg = s.cfg := rfl
@[simp] theorem State.raiseHandshakeStall_mo (s : State) : s.raiseHandshakeStall.mo = s.mo := rfl
@[simp] theorem State.raiseHandshakeStall_inuse (s : State) : s.raiseHandshakeStall.inuse = s.inuse := rfl
@[simp] theorem State.raiseHandshakeStall_rdy (s : State) : s.raiseHandshakeStall.rdy = s.rdy := rfl
@[simp] theorem State.raiseHandshakeStall_sh (s : State) : s.raiseHandshakeStall.sh = s.sh := rfl
@[simp] theorem State.raiseHandshakeStall_q (s : State) : s.raiseHandshakeStall.q = s.q := rfl
@[simp] theorem State.raiseHandshakeStall_cnt (s : State) : s.raiseHandshakeStall.cnt = s.cnt := rfl
@[simp] theorem State.raiseHandshakeStall_ctrl (s : State) : s.raiseHandshakeStall.ctrl = s.ctrl := rfl
@[simp] theorem State.raiseHandshakeStall_stat (s : State) : s.raiseHandshakeStall.stat = s.stat := rfl
@[simp] theorem State.raiseHandshakeStall_intpnd (s : State) : s.raiseHandshakeStall.intpnd = s.intpnd := rfl
@[simp] theorem State.raiseHandshakeStall_irqEn (s : State) : s.raiseHandshakeStall.irqEn = s.irqEn := rfl
@[simp] theorem State.raiseHandshakeStall_clkdiv (s : State) : s.raiseHandshakeStall.clkdiv = s.clkdiv := rfl
@[simp] theorem State.raiseHandshakeStall_bt (s : State) : s.raiseHandshakeStall.bt = s.bt := rfl
@[simp] theorem State.raiseHandshakeStall_xfer (s : State) : s.raiseHandshakeStall.xfer = s.xfer := rfl
@[simp] theorem State.raiseHandshakeStall_inited (s : State) : s.raiseHandshakeStall.inited = s.inited := rfl
@[simp] theorem State.raiseHandshakeStall_fg (s : State) : s.raiseHandshakeStall.fg = .stalled := rfl
@[simp] theorem State.raiseHandshakeStall_ports (s : State) : s.raiseHandshakeStall.ports = s.ports := rfl
@[simp] theorem State.raiseHandshakeStall_busTx (s : State) : s.raiseHandshakeStall.busTx = s.busTx := rfl
@[simp] theorem State.raiseHandshakeStall_rxOut (s : State) : s.raiseHandshakeStall.rxOut = s.rxOut := rfl
@[simp] theorem State.raiseHandshakeStall_txLost (s : State) : s.raiseHandshakeStall.txLost = s.txLost := rfl
@[simp] theorem State.raiseHandshakeStall_faults (s : State) : s.raiseHandshakeStall.faults = { s.faults with handshakeStall := true } := rfl
@[simp] theorem State.raiseHandshakeStall_refused (s : State) : s.raiseHandshakeStall.refused = s.refused := rfl
@[simp] theorem State.raiseHandshakeStall_txSeq (s : State) : s.raiseHandshakeStall.txSeq = s.txSeq := rfl
@[simp] theorem State.raiseHandshakeStall_issuer (s : State) : s.raiseHandshakeStall.issuer = s.issuer := rfl
@[simp] theorem State.raiseHandshakeStall_inputs (s : State) : s.raiseHandshakeStall.inputs = s.inputs := rfl
@[simp] theorem State.raiseHandshakeStall_draws (s : State) : s.raiseHandshakeStall.draws = s.draws := rfl
@[simp] theorem State.raiseHandshakeStall_moAt (s : State) (j : Nat) : s.raiseHandshakeStall.moAt j = s.moAt j := rfl
@[simp] theorem State.raiseHandshakeStall_shAt (s : State) (j : Nat) : s.raiseHandshakeStall.shAt j = s.shAt j := rfl
@[simp] theorem State.raiseHandshakeStall_rdyAt (s : State) (j : Nat) : s.raiseHandshakeStall.rdyAt j = s.rdyAt j := rfl
@[simp] theorem State.raiseHandshakeStall_inuseAt (s : State) (j : Nat) : s.raiseHandshakeStall.inuseAt j = s.inuseAt j := rfl
@[simp] theorem State.raiseHandshakeStall_slotPending (s : State) (j : Nat) : s.raiseHandshakeStall.slotPending j = s.slotPending j := rfl
@[simp] theorem State.raiseHandshakeStall_ringAt (s : State) (j : Nat) : s.raiseHandshakeStall.ringAt j = s.ringAt j := rfl
@[simp] theorem State.raiseHandshakeStall_txPending (s : State) (j : Nat) : s.raiseHandshakeStall.txPending j = s.txPending j := rfl
@[simp] theorem State.raiseHandshakeStall_freeRxSlot (s : State) : s.raiseHandshakeStall.freeRxSlot = s.freeRxSlot := rfl
@[simp] theorem State.raiseHandshakeStall_freeTxSlot (s : State) : s.raiseHandshakeStall.freeTxSlot = s.freeTxSlot := rfl
@[simp] theorem State.raiseHandshakeStall_onBus (s : State) : s.raiseHandshakeStall.onBus = s.onBus := rfl

/-! ## begin -/

@[simp] theorem State.begin_cfg (s : State) : s.begin.cfg = s.cfg := rfl
@[simp] theorem State.begin_mo (s : State) : s.begin.mo = s.mo := rfl
@[simp] theorem State.begin_inuse (s : State) : s.begin.inuse = s.inuse := rfl
@[simp] theorem State.begin_rdy (s : State) : s.begin.rdy = s.rdy := rfl
@[simp] theorem State.begin_sh (s : State) : s.begin.sh = s.sh := rfl
@[simp] theorem State.begin_q (s : State) : s.begin.q = s.q := rfl
@[simp] theorem State.begin_cnt (s : State) : s.begin.cnt = s.cnt := rfl
@[simp] theorem State.begin_ctrl (s : State) : s.begin.ctrl = s.ctrl := rfl
@[simp] theorem State.begin_stat (s : State) : s.begin.stat = s.stat := rfl
@[simp] theorem State.begin_intpnd (s : State) : s.begin.intpnd = s.intpnd := rfl
@[simp] theorem State.begin_irqEn (s : State) : s.begin.irqEn = s.irqEn := rfl
@[simp] theorem State.begin_clkdiv (s : State) : s.begin.clkdiv = s.clkdiv := rfl
@[simp] theorem State.begin_bt (s : State) : s.begin.bt = s.bt := rfl
@[simp] theorem State.begin_xfer (s : State) : s.begin.xfer = s.xfer := rfl
@[simp] theorem State.begin_inited (s : State) : s.begin.inited = s.inited := rfl
@[simp] theorem State.begin_fg (s : State) : s.begin.fg = s.fg := rfl
@[simp] theorem State.begin_ports (s : State) : s.begin.ports = { s.ports with code := none } := rfl
@[simp] theorem State.begin_busTx (s : State) : s.begin.busTx = s.busTx := rfl
@[simp] theorem State.begin_rxOut (s : State) : s.begin.rxOut = s.rxOut := rfl
@[simp] theorem State.begin_txLost (s : State) : s.begin.txLost = s.txLost := rfl
@[simp] theorem State.begin_faults (s : State) : s.begin.faults = s.faults := rfl
@[simp] theorem State.begin_refused (s : State) : s.begin.refused = s.refused := rfl
@[simp] theorem State.begin_txSeq (s : State) : s.begin.txSeq = s.txSeq := rfl
@[simp] theorem State.begin_issuer (s : State) : s.begin.issuer = s.issuer := rfl
@[simp] theorem State.begin_inputs (s : State) : s.begin.inputs = s.inputs := rfl
@[simp] theorem State.begin_draws (s : State) : s.begin.draws = s.draws := rfl
@[simp] theorem State.begin_moAt (s : State) (j : Nat) : s.begin.moAt j = s.moAt j := rfl
@[simp] theorem State.begin_shAt (s : State) (j : Nat) : s.begin.shAt j = s.shAt j := rfl
@[simp] theorem State.begin_rdyAt (s : State) (j : Nat) : s.begin.rdyAt j = s.rdyAt j := rfl
@[simp] theorem State.begin_inuseAt (s : State) (j : Nat) : s.begin.inuseAt j = s.inuseAt j := rfl
@[simp] theorem State.begin_slotPending (s : State) (j : Nat) : s.begin.slotPending j = s.slotPending j := rfl
@[simp] theorem State.begin_ringAt (s : State) (j : Nat) : s.begin.ringAt j = s.ringAt j := rfl
@[simp] theorem State.begin_txPending (s : State) (j : Nat) : s.begin.txPending j = s.txPending j := rfl
@[simp] theorem State.begin_freeRxSlot (s : State) : s.begin.freeRxSlot = s.freeRxSlot := rfl
@[simp] theorem State.begin_freeTxSlot (s : State) : s.begin.freeTxSlot = s.freeTxSlot := rfl
@[simp] theorem State.begin_onBus (s : State) : s.begin.onBus = s.onBus := rfl
@[simp] theorem State.begin_waiting (s : State) : s.begin.waiting = s.waiting := rfl
@[simp] theorem State.begin_masked (s : State) : s.begin.masked = s.masked := rfl
@[simp] theorem State.begin_initialising (s : State) : s.begin.initialising = s.initialising := rfl

/-! ## ret -/

@[simp] theorem State.ret_cfg (s : State) (r : ResultCode) : (s.ret r).cfg = s.cfg := rfl
@[simp] theorem State.ret_mo (s : State) (r : ResultCode) : (s.ret r).mo = s.mo := rfl
@[simp] theorem State.ret_inuse (s : State) (r : ResultCode) : (s.ret r).inuse = s.inuse := rfl
@[simp] theorem State.ret_rdy (s : State) (r : ResultCode) : (s.ret r).rdy = s.rdy := rfl
@[simp] theorem State.ret_sh (s : State) (r : ResultCode) : (s.ret r).sh = s.sh := rfl
@[simp] theorem State.ret_q (s : State) (r : ResultCode) : (s.ret r).q = s.q := rfl
@[simp] theorem State.ret_cnt (s : State) (r : ResultCode) : (s.ret r).cnt = s.cnt := rfl
@[simp] theorem State.ret_ctrl (s : State) (r : ResultCode) : (s.ret r).ctrl = s.ctrl := rfl
@[simp] theorem State.ret_stat (s : State) (r : ResultCode) : (s.ret r).stat = s.stat := rfl
@[simp] theorem State.ret_intpnd (s : State) (r : ResultCode) : (s.ret r).intpnd = s.intpnd := rfl
@[simp] theorem State.ret_irqEn (s : State) (r : ResultCode) : (s.ret r).irqEn = s.irqEn := rfl
@[simp] theorem State.ret_clkdiv (s : State) (r : ResultCode) : (s.ret r).clkdiv = s.clkdiv := rfl
@[simp] theorem State.ret_bt (s : State) (r : ResultCode) : (s.ret r).bt = s.bt := rfl
@[simp] theorem State.ret_xfer (s : State) (r : ResultCode) : (s.ret r).xfer = s.xfer := rfl
@[simp] theorem State.ret_inited (s : State) (r : ResultCode) : (s.ret r).inited = s.inited := rfl
@[simp] theorem State.ret_fg (s : State) (r : ResultCode) : (s.ret r).fg = .idle := rfl
@[simp] theorem State.ret_ports (s : State) (r : ResultCode) : (s.ret r).ports = { s.ports with code := some r } := rfl
@[simp] theorem State.ret_busTx (s : State) (r : ResultCode) : (s.ret r).busTx = s.busTx := rfl
@[simp] theorem State.ret_rxOut (s : State) (r : ResultCode) : (s.ret r).rxOut = s.rxOut := rfl
@[simp] theorem State.ret_txLost (s : State) (r : ResultCode) : (s.ret r).txLost = s.txLost := rfl
@[simp] theorem State.ret_faults (s : State) (r : ResultCode) : (s.ret r).faults = s.faults := rfl
@[simp] theorem State.ret_refused (s : State) (r : ResultCode) : (s.ret r).refused = s.refused := rfl
@[simp] theorem State.ret_txSeq (s : State) (r : ResultCode) : (s.ret r).txSeq = s.txSeq := rfl
@[simp] theorem State.ret_issuer (s : State) (r : ResultCode) : (s.ret r).issuer = s.issuer := rfl
@[simp] theorem State.ret_inputs (s : State) (r : ResultCode) : (s.ret r).inputs = s.inputs := rfl
@[simp] theorem State.ret_draws (s : State) (r : ResultCode) : (s.ret r).draws = s.draws := rfl
@[simp] theorem State.ret_moAt (s : State) (r : ResultCode) (j : Nat) : (s.ret r).moAt j = s.moAt j := rfl
@[simp] theorem State.ret_shAt (s : State) (r : ResultCode) (j : Nat) : (s.ret r).shAt j = s.shAt j := rfl
@[simp] theorem State.ret_rdyAt (s : State) (r : ResultCode) (j : Nat) : (s.ret r).rdyAt j = s.rdyAt j := rfl
@[simp] theorem State.ret_inuseAt (s : State) (r : ResultCode) (j : Nat) : (s.ret r).inuseAt j = s.inuseAt j := rfl
@[simp] theorem State.ret_slotPending (s : State) (r : ResultCode) (j : Nat) : (s.ret r).slotPending j = s.slotPending j := rfl
@[simp] theorem State.ret_ringAt (s : State) (r : ResultCode) (j : Nat) : (s.ret r).ringAt j = s.ringAt j := rfl
@[simp] theorem State.ret_txPending (s : State) (r : ResultCode) (j : Nat) : (s.ret r).txPending j = s.txPending j := rfl
@[simp] theorem State.ret_freeRxSlot (s : State) (r : ResultCode) : (s.ret r).freeRxSlot = s.freeRxSlot := rfl
@[simp] theorem State.ret_freeTxSlot (s : State) (r : ResultCode) : (s.ret r).freeTxSlot = s.freeTxSlot := rfl
@[simp] theorem State.ret_onBus (s : State) (r : ResultCode) : (s.ret r).onBus = s.onBus := rfl

/-! ## dropHead -/

@[simp] theorem State.dropHead_cfg (s : State) : s.dropHead.cfg = s.cfg := rfl
@[simp] theorem State.dropHead_mo (s : State) : s.dropHead.mo = s.mo := rfl
@[simp] theorem State.dropHead_inuse (s : State) : s.dropHead.inuse = s.inuse := rfl
@[simp] theorem State.dropHead_rdy (s : State) : s.dropHead.rdy = s.rdy := rfl
@[simp] theorem State.dropHead_sh (s : State) : s.dropHead.sh = s.sh := rfl
@[simp] theorem State.dropHead_q (s : State) : s.dropHead.q = { s.q with head := (s.q.head + 1) % s.cfg.QCAP, count := s.q.count - 1 } := rfl
@[simp] theorem State.dropHead_cnt (s : State) : s.dropHead.cnt = s.cnt := rfl
@[simp] theorem State.dropHead_ctrl (s : State) : s.dropHead.ctrl = s.ctrl := rfl
@[simp] theorem State.dropHead_stat (s : State) : s.dropHead.stat = s.stat := rfl
@[simp] theorem State.dropHead_intpnd (s : State) : s.dropHead.intpnd = s.intpnd := rfl
@[simp] theorem State.dropHead_irqEn (s : State) : s.dropHead.irqEn = s.irqEn := rfl
@[simp] theorem State.dropHead_clkdiv (s : State) : s.dropHead.clkdiv = s.clkdiv := rfl
@[simp] theorem State.dropHead_bt (s : State) : s.dropHead.bt = s.bt := rfl
@[simp] theorem State.dropHead_xfer (s : State) : s.dropHead.xfer = s.xfer := rfl
@[simp] theorem State.dropHead_inited (s : State) : s.dropHead.inited = s.inited := rfl
@[simp] theorem State.dropHead_fg (s : State) : s.dropHead.fg = s.fg := rfl
@[simp] theorem State.dropHead_ports (s : State) : s.dropHead.ports = s.ports := rfl
@[simp] theorem State.dropHead_busTx (s : State) : s.dropHead.busTx = s.busTx := rfl
@[simp] theorem State.dropHead_rxOut (s : State) : s.dropHead.rxOut = s.rxOut := rfl
@[simp] theorem State.dropHead_txLost (s : State) : s.dropHead.txLost = s.txLost := rfl
@[simp] theorem State.dropHead_faults (s : State) : s.dropHead.faults = s.faults := rfl
@[simp] theorem State.dropHead_refused (s : State) : s.dropHead.refused = s.refused := rfl
@[simp] theorem State.dropHead_txSeq (s : State) : s.dropHead.txSeq = s.txSeq := rfl
@[simp] theorem State.dropHead_issuer (s : State) : s.dropHead.issuer = s.issuer := rfl
@[simp] theorem State.dropHead_inputs (s : State) : s.dropHead.inputs = s.inputs := rfl
@[simp] theorem State.dropHead_draws (s : State) : s.dropHead.draws = s.draws := rfl
@[simp] theorem State.dropHead_moAt (s : State) (j : Nat) : s.dropHead.moAt j = s.moAt j := rfl
@[simp] theorem State.dropHead_shAt (s : State) (j : Nat) : s.dropHead.shAt j = s.shAt j := rfl
@[simp] theorem State.dropHead_rdyAt (s : State) (j : Nat) : s.dropHead.rdyAt j = s.rdyAt j := rfl
@[simp] theorem State.dropHead_inuseAt (s : State) (j : Nat) : s.dropHead.inuseAt j = s.inuseAt j := rfl
@[simp] theorem State.dropHead_slotPending (s : State) (j : Nat) : s.dropHead.slotPending j = s.slotPending j := rfl
@[simp] theorem State.dropHead_txPending (s : State) (j : Nat) : s.dropHead.txPending j = s.txPending j := rfl
@[simp] theorem State.dropHead_freeRxSlot (s : State) : s.dropHead.freeRxSlot = s.freeRxSlot := rfl
@[simp] theorem State.dropHead_freeTxSlot (s : State) : s.dropHead.freeTxSlot = s.freeTxSlot := rfl
@[simp] theorem State.dropHead_onBus (s : State) : s.dropHead.onBus = s.onBus := rfl
@[simp] theorem State.dropHead_waiting (s : State) : s.dropHead.waiting = s.waiting := rfl
@[simp] theorem State.dropHead_masked (s : State) : s.dropHead.masked = s.masked := rfl
@[simp] theorem State.dropHead_initialising (s : State) : s.dropHead.initialising = s.initialising := rfl

/-! ## fetched -/

@[simp] theorem State.fetched_cfg (s : State) (rest : List Input) (ctx : Context) : (s.fetched rest ctx).cfg = s.cfg := rfl
@[simp] theorem State.fetched_mo (s : State) (rest : List Input) (ctx : Context) : (s.fetched rest ctx).mo = s.mo := rfl
@[simp] theorem State.fetched_inuse (s : State) (rest : List Input) (ctx : Context) : (s.fetched rest ctx).inuse = s.inuse := rfl
@[simp] theorem State.fetched_rdy (s : State) (rest : List Input) (ctx : Context) : (s.fetched rest ctx).rdy = s.rdy := rfl
@[simp] theorem State.fetched_sh (s : State) (rest : List Input) (ctx : Context) : (s.fetched rest ctx).sh = s.sh := rfl
@[simp] theorem State.fetched_q (s : State) (rest : List Input) (ctx : Context) : (s.fetched rest ctx).q = s.q := rfl
@[simp] theorem State.fetched_cnt (s : State) (rest : List Input) (ctx : Context) : (s.fetched rest ctx).cnt = s.cnt := rfl
@[simp] theorem State.fetched_ctrl (s : State) (rest : List Input) (ctx : Context) : (s.fetched rest ctx).ctrl = s.ctrl := rfl
@[simp] theorem State.fetched_stat (s : State) (rest : List Input) (ctx : Context) : (s.fetched rest ctx).stat = s.stat := rfl
@[simp] theorem State.fetched_intpnd (s : State) (rest : List Input) (ctx : Context) : (s.fetched rest ctx).intpnd = s.intpnd := rfl
@[simp] theorem State.fetched_irqEn (s : State) (rest : List Input) (ctx : Context) : (s.fetched rest ctx).irqEn = s.irqEn := rfl
@[simp] theorem State.fetched_clkdiv (s : State) (rest : List Input) (ctx : Context) : (s.fetched rest ctx).clkdiv = s.clkdiv := rfl
@[simp] theorem State.fetched_bt (s : State) (rest : List Input) (ctx : Context) : (s.fetched rest ctx).bt = s.bt := rfl
@[simp] theorem State.fetched_xfer (s : State) (rest : List Input) (ctx : Context) : (s.fetched rest ctx).xfer = s.xfer := rfl
@[simp] theorem State.fetched_inited (s : State) (rest : List Input) (ctx : Context) : (s.fetched rest ctx).inited = s.inited := rfl
@[simp] theorem State.fetched_fg (s : State) (rest : List Input) (ctx : Context) : (s.fetched rest ctx).fg = s.fg := rfl
@[simp] theorem State.fetched_ports (s : State) (rest : List Input) (ctx : Context) : (s.fetched rest ctx).ports = s.ports := rfl
@[simp] theorem State.fetched_busTx (s : State) (rest : List Input) (ctx : Context) : (s.fetched rest ctx).busTx = s.busTx := rfl
@[simp] theorem State.fetched_rxOut (s : State) (rest : List Input) (ctx : Context) : (s.fetched rest ctx).rxOut = s.rxOut := rfl
@[simp] theorem State.fetched_txLost (s : State) (rest : List Input) (ctx : Context) : (s.fetched rest ctx).txLost = s.txLost := rfl
@[simp] theorem State.fetched_faults (s : State) (rest : List Input) (ctx : Context) : (s.fetched rest ctx).faults = s.faults := rfl
@[simp] theorem State.fetched_refused (s : State) (rest : List Input) (ctx : Context) : (s.fetched rest ctx).refused = s.refused := rfl
@[simp] theorem State.fetched_txSeq (s : State) (rest : List Input) (ctx : Context) : (s.fetched rest ctx).txSeq = s.txSeq := rfl
@[simp] theorem State.fetched_issuer (s : State) (rest : List Input) (ctx : Context) : (s.fetched rest ctx).issuer = ctx := rfl
@[simp] theorem State.fetched_inputs (s : State) (rest : List Input) (ctx : Context) : (s.fetched rest ctx).inputs = rest := rfl
@[simp] theorem State.fetched_draws (s : State) (rest : List Input) (ctx : Context) : (s.fetched rest ctx).draws = s.draws := rfl
@[simp] theorem State.fetched_moAt (s : State) (rest : List Input) (ctx : Context) (j : Nat) : (s.fetched rest ctx).moAt j = s.moAt j := rfl
@[simp] theorem State.fetched_shAt (s : State) (rest : List Input) (ctx : Context) (j : Nat) : (s.fetched rest ctx).shAt j = s.shAt j := rfl
@[simp] theorem State.fetched_rdyAt (s : State) (rest : List Input) (ctx : Context) (j : Nat) : (s.fetched rest ctx).rdyAt j = s.rdyAt j := rfl
@[simp] theorem State.fetched_inuseAt (s : State) (rest : List Input) (ctx : Context) (j : Nat) : (s.fetched rest ctx).inuseAt j = s.inuseAt j := rfl
@[simp] theorem State.fetched_slotPending (s : State) (rest : List Input) (ctx : Context) (j : Nat) : (s.fetched rest ctx).slotPending j = s.slotPending j := rfl
@[simp] theorem State.fetched_ringAt (s : State) (rest : List Input) (ctx : Context) (j : Nat) : (s.fetched rest ctx).ringAt j = s.ringAt j := rfl
@[simp] theorem State.fetched_txPending (s : State) (rest : List Input) (ctx : Context) (j : Nat) : (s.fetched rest ctx).txPending j = s.txPending j := rfl
@[simp] theorem State.fetched_freeRxSlot (s : State) (rest : List Input) (ctx : Context) : (s.fetched rest ctx).freeRxSlot = s.freeRxSlot := rfl
@[simp] theorem State.fetched_freeTxSlot (s : State) (rest : List Input) (ctx : Context) : (s.fetched rest ctx).freeTxSlot = s.freeTxSlot := rfl
@[simp] theorem State.fetched_onBus (s : State) (rest : List Input) (ctx : Context) : (s.fetched rest ctx).onBus = s.onBus := rfl
@[simp] theorem State.fetched_waiting (s : State) (rest : List Input) (ctx : Context) : (s.fetched rest ctx).waiting = s.waiting := rfl
@[simp] theorem State.fetched_masked (s : State) (rest : List Input) (ctx : Context) : (s.fetched rest ctx).masked = s.masked := rfl
@[simp] theorem State.fetched_initialising (s : State) (rest : List Input) (ctx : Context) : (s.fetched rest ctx).initialising = s.initialising := rfl

end Sys2Proof.Machine
end

