-- ==== Sys2Proof/Laws/Arrays.lean ====
section
/-! SUPPORT. Read after write for the arrays of the block: a write of one entry is read back at its index and leaves
every other entry alone (spec/20_memory.md R45, R46, R49), and the scans of spec/00_scope.md R8. -/

namespace Sys2Proof.Machine

/-- `getD` after `set`, for every array. -/
theorem getD_set {α : Type} (l : List α) (i j : Nat) (a d : α) :
    (l.set i a).getD j d = if i = j ∧ i < l.length then a else l.getD j d := by
  by_cases h : i = j
  · subst h
    by_cases hl : i < l.length <;> simp [List.getD, hl]
  · simp [List.getD, h]

theorem State.moAt_setMo (s : State) (i j : Nat) (m : MsgObj) :
    (s.setMo i m).moAt j = if i = j ∧ i < s.mo.length then m else s.moAt j := getD_set ..

theorem State.shAt_setSh (s : State) (i j : Nat) (e : Shadow) :
    (s.setSh i e).shAt j = if i = j ∧ i < s.sh.length then e else s.shAt j := getD_set ..

theorem State.rdyAt_setRdy (s : State) (i j : Nat) (b : Bool) :
    (s.setRdy i b).rdyAt j = if i = j ∧ i < s.rdy.length then b else s.rdyAt j := getD_set ..

theorem State.inuseAt_setInuse (s : State) (i j : Nat) :
    (s.setInuse i).inuseAt j = if i = j ∧ i < s.inuse.length then true else s.inuseAt j := getD_set ..

theorem State.slotPending_setSlotPending (s : State) (i j : Nat) (b : Bool) :
    (s.setSlotPending i b).slotPending j = if i = j ∧ i < s.intpnd.slot.length then b else s.slotPending j :=
  getD_set ..

@[simp] theorem State.setStatusPending_slotPending (s : State) (b : Bool) (j : Nat) :
    (s.setStatusPending b).slotPending j = s.slotPending j := rfl

@[simp] theorem State.dropHead_ringAt (s : State) (k : Nat) : s.dropHead.ringAt k = s.ringAt k := rfl

/-- The pending bitmap is the transmit-request bits (R17). -/
theorem State.txPending_eq (s : State) (i : Nat) : s.txPending i = (s.moAt i).txrqst := rfl

/-- A flag read outside its array is clear. -/
theorem getD_false_of_length_le (l : List Bool) (i : Nat) (h : l.length ≤ i) : l.getD i false = false := by
  simp [List.getD, h]

theorem State.inuseAt_lt (s : State) (i : Nat) (h : s.inuseAt i = true) : i < s.inuse.length := by
  by_contra hn
  exact absurd (h.symm.trans (getD_false_of_length_le s.inuse i (Nat.le_of_not_lt hn))) Bool.noConfusion

theorem State.rdyAt_lt (s : State) (i : Nat) (h : s.rdyAt i = true) : i < s.rdy.length := by
  by_contra hn
  exact absurd (h.symm.trans (getD_false_of_length_le s.rdy i (Nat.le_of_not_lt hn))) Bool.noConfusion

theorem State.slotPending_lt (s : State) (i : Nat) (h : s.slotPending i = true) : i < s.intpnd.slot.length := by
  by_contra hn
  exact absurd (h.symm.trans (getD_false_of_length_le s.intpnd.slot i (Nat.le_of_not_lt hn))) Bool.noConfusion

theorem State.txPending_lt (s : State) (i : Nat) (h : s.txPending i = true) : i < s.mo.length := by
  by_contra hn
  simp [State.txPending, State.moAt, List.getD, Nat.le_of_not_lt hn, MsgObj.none] at h

/-! ## Scans -/

/-- What a scan that finds an index says: the index is in range, has the property, and is the least that does. -/
theorem leastIn_eq_some (lo hi : Nat) (p : Nat → Bool) (i : Nat) :
    leastIn lo hi p = some i ↔ lo ≤ i ∧ i < hi ∧ p i = true ∧ ∀ j, lo ≤ j → j < i → p j = false := by
  unfold leastIn
  rw [List.find?_range'_eq_some]
  simp only [List.mem_range'_1, Bool.not_eq_eq_eq_not, Bool.not_true]
  constructor
  · rintro ⟨hp, ⟨h1, h2⟩, h3⟩
    exact ⟨h1, by omega, hp, h3⟩
  · rintro ⟨h1, h2, hp, h3⟩
    exact ⟨hp, ⟨h1, by omega⟩, h3⟩

/-- What a scan that finds nothing says. -/
theorem leastIn_eq_none (lo hi : Nat) (p : Nat → Bool) :
    leastIn lo hi p = none ↔ ∀ j, lo ≤ j → j < hi → p j = false := by
  unfold leastIn
  simp only [List.find?_eq_none, List.mem_range'_1, Bool.not_eq_true]
  constructor
  · intro h j h1 h2
    exact h j ⟨h1, by omega⟩
  · intro h j hj
    exact h j hj.1 (by omega)

theorem State.freeRxSlot_eq_some (s : State) (i : Nat) :
    s.freeRxSlot = some i ↔ i < s.cfg.NRX ∧ s.inuseAt i = false ∧ ∀ j, j < i → s.inuseAt j = true := by
  simp [State.freeRxSlot, leastIn_eq_some]

theorem State.freeRxSlot_eq_none (s : State) :
    s.freeRxSlot = none ↔ ∀ j, j < s.cfg.NRX → s.inuseAt j = true := by
  simp [State.freeRxSlot, leastIn_eq_none]

theorem State.freeTxSlot_eq_some (s : State) (i : Nat) :
    s.freeTxSlot = some i ↔ s.cfg.NRX ≤ i ∧ i < s.cfg.N ∧ s.txPending i = false ∧
      ∀ j, s.cfg.NRX ≤ j → j < i → s.txPending j = true := by
  simp [State.freeTxSlot, leastIn_eq_some]

theorem State.freeTxSlot_eq_none (s : State) :
    s.freeTxSlot = none ↔ ∀ j, s.cfg.NRX ≤ j → j < s.cfg.N → s.txPending j = true := by
  simp [State.freeTxSlot, leastIn_eq_none]

end Sys2Proof.Machine
end

