-- ==== Sys2Proof/Laws/Operands.lean ====
section
/-! SUPPORT. The two byte lanes of a data word (spec/20_memory.md R39, R40), and the widths of operands that
assembly keeps (spec/30_encoding.md R67). -/

namespace Sys2Proof.Machine

/-- A packed word is the odd byte above the even one. -/
theorem packWord_eq_append (even odd : Byte) : packWord even odd = odd ++ even := by
  apply BitVec.eq_of_getLsbD_eq
  intro i hi
  simp only [packWord, BitVec.getLsbD_or, BitVec.getLsbD_shiftLeft, BitVec.getLsbD_setWidth, BitVec.getLsbD_append]
  by_cases h : i < 8
  · simp [h, hi]
  · have h2 : even.getLsbD i = false := BitVec.getLsbD_of_ge _ _ (by omega)
    have h3 : i - 8 < 16 := by omega
    simp [h, h2, h3, hi]

@[simp] theorem evenByte_packWord (even odd : Byte) : evenByte (packWord even odd) = even := by
  apply BitVec.eq_of_getLsbD_eq
  intro i hi
  rw [evenByte, BitVec.getLsbD_extractLsb', packWord_eq_append, BitVec.getLsbD_append]
  simp [hi]

@[simp] theorem oddByte_packWord (even odd : Byte) : oddByte (packWord even odd) = odd := by
  apply BitVec.eq_of_getLsbD_eq
  intro i hi
  rw [oddByte, BitVec.getLsbD_extractLsb', packWord_eq_append, BitVec.getLsbD_append]
  simp [hi]

@[simp] theorem packWord_bytes (w : Half) : packWord (evenByte w) (oddByte w) = w := by
  apply BitVec.eq_of_getLsbD_eq
  intro i hi
  rw [packWord_eq_append, BitVec.getLsbD_append]
  by_cases h : i < 8
  · simp [h, evenByte]
  · have h1 : i - 8 < 8 := by omega
    have h2 : 8 + (i - 8) = i := by omega
    simp [h, h1, h2, oddByte]

theorem fitsIdent_iff (v : Word) (extended : Bool) : fitsIdent v extended = true ↔ v.toNat < 2 ^ identWidth extended := by
  simp [fitsIdent]

theorem identWidth_le (extended : Bool) : identWidth extended ≤ 29 := by
  cases extended <;> simp [identWidth]

/-- Cutting a fitting identifier to 29 bits and widening it again gives it back (R67). -/
theorem setWidth_setWidth_of_fits (v : Word) (extended : Bool) (h : fitsIdent v extended = true) :
    (v.setWidth 29).setWidth 32 = v := by
  rw [fitsIdent_iff] at h
  have hw : v.toNat < 2 ^ 29 := Nat.lt_of_lt_of_le h (Nat.pow_le_pow_right (by decide) (identWidth_le extended))
  apply BitVec.eq_of_toNat_eq
  simp only [BitVec.toNat_setWidth]
  omega

/-- A legal length survives being cut to a data-length code (R67). -/
theorem len_setWidth_setWidth (l : Byte) (h : l.toNat ≤ 8) : (l.setWidth 4).setWidth 8 = l := by
  apply BitVec.eq_of_toNat_eq
  simp only [BitVec.toNat_setWidth]
  omega

theorem dlc_of_len (l : Byte) (h : l.toNat ≤ 8) : (l.setWidth 4).toNat ≤ 8 := by
  simp only [BitVec.toNat_setWidth]
  omega

theorem frameOk_iff (f : Frame) : frameOk f = true ↔ f.len.toNat ≤ 8 ∧ fitsIdent f.id f.ext = true := by
  simp [frameOk, lengthOk]

/-- The images of checked operands are well-formed (R64, R67). -/
theorem imageOk_filterImage (mask value : Word) (extended : Bool) (h : fitsIdent value extended = true) :
    imageOk (filterImage mask value extended) = true := by
  simp only [filterImage, imageOk, setWidth_setWidth_of_fits value extended h, h]

theorem imageOk_txImage (f : Frame) (h : frameOk f = true) : imageOk (txImage f) = true := by
  obtain ⟨hl, hi⟩ := (frameOk_iff f).1 h
  simp only [txImage, imageOk, setWidth_setWidth_of_fits f.id f.ext hi, hi, dlc_of_len f.len hl, decide_true,
    Bool.and_self]

end Sys2Proof.Machine
end

