-- ==== Sys2Proof/Laws/Codec.lean ====
section
/-! SUPPORT. Each operand reader gives back what its writer wrote, and leaves the bytes that follow. -/

namespace Sys2Proof

@[simp] theorem thenRead_ok {α β : Type} (a : α) (bs : List Byte) (k : α → List Byte → Reads β) :
    thenRead (.ok (a, bs)) k = k a bs := rfl

@[simp] theorem thenRead_error {α β : Type} (e : DecodeError) (k : α → List Byte → Reads β) :
    thenRead (.error e) k = .error e := rfl

@[simp] theorem readFlag_writeFlag (b : Bool) (rest : List Byte) : readFlag (writeFlag b ++ rest) = .ok (b, rest) := by
  cases b <;> rfl

/-- A 16-bit value is its two bytes. -/
theorem half_bytes (h : Half) : (h.extractLsb' 8 8 ++ h.extractLsb' 0 8 : BitVec 16) = h := by
  apply BitVec.eq_of_getLsbD_eq
  intro i hi
  rw [BitVec.getLsbD_append]
  by_cases h8 : i < 8
  · simp [h8]
  · have h1 : i - 8 < 8 := by omega
    have h2 : 8 + (i - 8) = i := by omega
    simp [h8, h1, h2]

@[simp] theorem readHalf_writeHalf (h : Half) (rest : List Byte) : readHalf (writeHalf h ++ rest) = .ok (h, rest) := by
  simp only [writeHalf, readHalf, List.cons_append, List.nil_append]
  rw [half_bytes]

theorem readSlot_writeSlot (i : Nat) (hi : i < 65536) (rest : List Byte) :
    readSlot (writeSlot i ++ rest) = .ok (i, rest) := by
  simp [readSlot, writeSlot, Nat.mod_eq_of_lt hi]

/-- A 32-bit value is its four bytes. -/
theorem word_bytes (w : Word) :
    (w.extractLsb' 24 8 ++ w.extractLsb' 16 8 ++ w.extractLsb' 8 8 ++ w.extractLsb' 0 8 : BitVec 32) = w := by
  apply BitVec.eq_of_getLsbD_eq
  intro i hi
  rw [BitVec.getLsbD_append, BitVec.getLsbD_append, BitVec.getLsbD_append]
  by_cases h8 : i < 8
  · simp [h8]
  · by_cases h16 : i < 16
    · have h1 : i - 8 < 8 := by omega
      have h2 : 8 + (i - 8) = i := by omega
      simp [h8, h1, h2]
    · by_cases h24 : i < 24
      · have h1 : ¬ i - 8 < 8 := by omega
        have h2 : i - 8 - 8 < 8 := by omega
        have h3 : 16 + (i - 8 - 8) = i := by omega
        simp [h8, h1, h2, h3]
      · have h1 : ¬ i - 8 < 8 := by omega
        have h2 : ¬ i - 8 - 8 < 8 := by omega
        have h3 : i - 8 - 8 - 8 < 8 := by omega
        have h4 : 24 + (i - 8 - 8 - 8) = i := by omega
        simp [h8, h1, h2, h3, h4]

@[simp] theorem readWord_writeWord (w : Word) (rest : List Byte) : readWord (writeWord w ++ rest) = .ok (w, rest) := by
  simp only [writeWord, readWord, List.cons_append, List.nil_append]
  rw [word_bytes]

@[simp] theorem readPayload_writePayload (p : Payload) (rest : List Byte) :
    readPayload (writePayload p ++ rest) = .ok (p, rest) := rfl

@[simp] theorem readFrame_writeFrame (f : Frame) (rest : List Byte) : readFrame (writeFrame f ++ rest) = .ok (f, rest) := by
  obtain ⟨id, payload, len, ext⟩ := f
  cases ext <;> simp [readFrame, writeFrame, writeFlag, readLenExt, List.append_assoc]

@[simp] theorem readDataWords_writeDataWords (w : DataWords) (rest : List Byte) :
    readDataWords (writeDataWords w ++ rest) = .ok (w, rest) := by
  simp [readDataWords, writeDataWords, List.append_assoc]

@[simp] theorem readFilter_writeFilter (mask value : Word) (extended : Bool) (rest : List Byte) :
    readFilter (writeFilter mask value extended ++ rest) = .ok ((mask, value, extended), rest) := by
  simp [readFilter, writeFilter, List.append_assoc]

/-- The fields of a packed image's first word. -/
theorem imageHead_kind (kind : BitVec 2) (xtd : Bool) (id : Ident) :
    (imageHead kind xtd id).extractLsb' 30 2 = kind := by
  apply BitVec.eq_of_getLsbD_eq
  intro i hi
  rw [BitVec.getLsbD_extractLsb', imageHead, BitVec.getLsbD_append, BitVec.getLsbD_append]
  have h1 : ¬ 30 + i < 29 := by omega
  have h2 : ¬ 30 + i - 29 < 1 := by omega
  have h3 : 30 + i - 29 - 1 = i := by omega
  simp only [h1, h2, h3, hi, decide_true, Bool.true_and, if_false]

theorem imageHead_tag (kind : BitVec 2) (xtd : Bool) (id : Ident) : (imageHead kind xtd id).getLsbD 29 = xtd := by
  rw [imageHead, BitVec.getLsbD_append, BitVec.getLsbD_append]
  cases xtd <;> simp

/-- The tag bit, in the bracket form that simp writes it in. -/
@[simp] theorem imageHead_getElem (kind : BitVec 2) (xtd : Bool) (id : Ident) : (imageHead kind xtd id)[29] = xtd :=
  imageHead_tag kind xtd id

theorem imageHead_id (kind : BitVec 2) (xtd : Bool) (id : Ident) : (imageHead kind xtd id).extractLsb' 0 29 = id := by
  apply BitVec.eq_of_getLsbD_eq
  intro i hi
  rw [BitVec.getLsbD_extractLsb', imageHead, BitVec.getLsbD_append]
  simp [hi]

theorem maskWord_top (mask : Ident) : (0#3 ++ mask : Word).extractLsb' 29 3 = 0#3 := by
  apply BitVec.eq_of_getLsbD_eq
  intro i hi
  rw [BitVec.getLsbD_extractLsb', BitVec.getLsbD_append]
  simp

theorem maskWord_low (mask : Ident) : (0#3 ++ mask : Word).extractLsb' 0 29 = mask := by
  apply BitVec.eq_of_getLsbD_eq
  intro i hi
  rw [BitVec.getLsbD_extractLsb', BitVec.getLsbD_append]
  simp [hi]

theorem ctl_top (dlc : Dlc) : (3#12 ++ dlc : Half).extractLsb' 4 12 = 3#12 := by
  apply BitVec.eq_of_getLsbD_eq
  intro i hi
  rw [BitVec.getLsbD_extractLsb', BitVec.getLsbD_append]
  simp [hi]

theorem ctl_low (dlc : Dlc) : (3#12 ++ dlc : Half).extractLsb' 0 4 = dlc := by
  apply BitVec.eq_of_getLsbD_eq
  intro i hi
  rw [BitVec.getLsbD_extractLsb', BitVec.getLsbD_append]
  simp [hi]

@[simp] theorem readImage_writeImage (image : XferImage) (rest : List Byte) :
    readImage (writeImage image ++ rest) = .ok (image, rest) := by
  cases image with
  | filter id mask xtd =>
    simp [readImage, writeImage, List.append_assoc, imageOfParts, imageHead_kind, imageHead_id,
      maskWord_top, maskWord_low]
  | txframe id xtd dlc w =>
    simp [readImage, writeImage, List.append_assoc, imageOfParts, imageHead_kind, imageHead_id,
      ctl_top, ctl_low]

theorem readSlots_writeSlots (l : List Nat) (h : ∀ i ∈ l, i < 65536) (rest : List Byte) :
    readSlots l.length (writeSlots l ++ rest) = .ok (l, rest) := by
  induction l with
  | nil => rfl
  | cons i l ih =>
    have hi : i < 65536 := h i List.mem_cons_self
    have hl : ∀ j ∈ l, j < 65536 := fun j hj => h j (List.mem_cons_of_mem _ hj)
    simp [readSlots, writeSlots, List.append_assoc, readSlot_writeSlot i hi, ih hl]

theorem readLost_writeLost (lost : List Nat) (e : Bool) (h : ∀ i ∈ lost, i < 65536) (hn : lost.length < 65536)
    (rest : List Byte) : readLost (writeLost lost e ++ rest) = .ok ((lost, e), rest) := by
  simp [readLost, writeLost, List.append_assoc, readSlot_writeSlot _ hn, readSlots_writeSlots lost h]

/-- The operand of INIT in the serial form: two words of at most 32 bits (assumption log 5). -/
theorem readBaud_writeBaud (b : Baud) (hc : b.clkdiv < 2 ^ 32) (hb : b.bt < 2 ^ 32) (rest : List Byte) :
    readBaud (writeWord (BitVec.ofNat 32 b.clkdiv) ++ (writeWord (BitVec.ofNat 32 b.bt) ++ rest)) = .ok (b, rest) := by
  have h1 := Nat.mod_eq_of_lt hc
  have h2 := Nat.mod_eq_of_lt hb
  simp only [readBaud, readWord_writeWord, thenRead_ok, BitVec.toNat_ofNat, h1, h2]

theorem readRxIndication_writeSlot (i : Nat) (hi : i < 32768) (rest : List Byte) :
    readRxIndication (writeSlot i ++ rest) = .ok (i, rest) := by
  have h15 : (BitVec.ofNat 16 i).getLsbD 15 = false := by
    rw [BitVec.getLsbD_ofNat]
    simp [Nat.testBit_lt_two_pow (show i < 2 ^ 15 by omega)]
  have hlow : ((BitVec.ofNat 16 i).extractLsb' 0 15).toNat = i := by
    simp only [BitVec.extractLsb'_toNat, BitVec.toNat_ofNat, Nat.shiftRight_zero]
    omega
  simp only [readRxIndication, writeSlot, readHalf_writeHalf, thenRead_ok, h15, hlow, Bool.false_eq_true, if_false]

/-! ## Packed records as numbers -/

theorem toNat_append {n m : Nat} (x : BitVec n) (y : BitVec m) : (x ++ y).toNat = x.toNat * 2 ^ m + y.toNat := by
  rw [BitVec.toNat_append, ← Nat.shiftLeft_add_eq_or_of_lt y.isLt, Nat.shiftLeft_eq]

theorem leValue_writeWord (w : Word) (rest : List Byte) :
    leValue (writeWord w ++ rest) = w.toNat + 2 ^ 32 * leValue rest := by
  have := w.isLt
  simp only [writeWord, List.cons_append, List.nil_append, leValue, BitVec.extractLsb'_toNat,
    Nat.shiftRight_eq_div_pow]
  omega

theorem leValue_writeHalf (h : Half) (rest : List Byte) :
    leValue (writeHalf h ++ rest) = h.toNat + 2 ^ 16 * leValue rest := by
  have := h.isLt
  simp only [writeHalf, List.cons_append, List.nil_append, leValue, BitVec.extractLsb'_toNat,
    Nat.shiftRight_eq_div_pow]
  omega

/-! ## What a decoded operation tells -/

/-- A read that goes on has read something, and goes on from there. -/
theorem thenRead_eq_ok {α β : Type} {r : Reads α} {k : α → List Byte → Reads β} {x : β × List Byte}
    (h : thenRead r k = .ok x) : ∃ a bs, r = .ok (a, bs) ∧ k a bs = .ok x := by
  unfold thenRead at h
  split at h
  · exact ⟨_, _, rfl, h⟩
  · cases h

/-- The operation read from a byte sequence has the sequence's first byte as its code (R56). -/
theorem decode_opcode {code : Byte} {bs more : List Byte} {i : Instr} (h : decode (code :: bs) = .ok (i, more)) :
    i.opcode = code := by
  simp only [decode] at h
  unfold decodeOperands at h
  split at h
  all_goals rename_i hc
  all_goals try (replace h := thenRead_eq_ok h; obtain ⟨_, _, _, h⟩ := h)
  all_goals try (replace h := thenRead_eq_ok h; obtain ⟨_, _, _, h⟩ := h)
  all_goals first
    | (injection h with h; injection h with h1 h2; subst h1; apply BitVec.eq_of_toNat_eq; rw [hc]; rfl)
    | cases h

end Sys2Proof
end

