-- ==== Sys2Proof/Laws/Ops.lean ====
section
/-! SUPPORT. What each shared operation can do, said once: how a foreground operation is issued, how a handshake is
issued and waited for, how an event happens, and what the controller's and the interrupt context's effects do to each
field. Later proofs cite these and do not unfold the operations. -/

namespace Sys2Proof.Machine

/-! ## Issuing a foreground operation -/

/-- Outside the interrupt context, with the foreground idle, an operation whose preconditions hold takes its first
micro-step. -/
theorem State.issue_of_free (s : State) (body : State → State) (h : s.free) : s.issue none body = .next (body s.begin) := by
  obtain ⟨h1, h2⟩ := h
  simp [State.issue, State.contextRefusal, h1, h2]

/-- A precondition that fails refuses. -/
theorem State.issue_refused (s : State) (r : RefuseReason) (body : State → State) (h : s.free) :
    s.issue (some r) body = .next (s.raiseRefuse r) := by
  obtain ⟨h1, h2⟩ := h
  simp [State.issue, State.contextRefusal, h1, h2]

/-- From the interrupt context every foreground operation is refused. -/
theorem State.issue_interrupt (s : State) (pre : Option RefuseReason) (body : State → State)
    (h : s.issuer = .interrupt) : s.issue pre body = .next (s.raiseRefuse .sendFromIrq) := by
  simp [State.issue, State.contextRefusal, h]

/-- With another operation in progress every foreground operation is refused. -/
theorem State.issue_overlap (s : State) (pre : Option RefuseReason) (body : State → State)
    (h : s.issuer = .foreground) (hf : s.fg ≠ .idle) : s.issue pre body = .next (s.raiseRefuse .overlap) := by
  simp [State.issue, State.contextRefusal, h, hf]

/-- All that issuing can do: a refusal that changes nothing but the mark, or the first micro-step from idle. -/
theorem State.issue_cases {s t : State} {pre : Option RefuseReason} {body : State → State}
    (h : s.issue pre body = .next t) :
    (∃ r, t = s.raiseRefuse r) ∨ (s.free ∧ pre = none ∧ t = body s.begin) := by
  unfold State.issue at h
  split at h
  · rename_i r _
    exact .inl ⟨r, by injection h with h; exact h.symm⟩
  · rename_i hc
    cases pre with
    | some r => exact .inl ⟨r, by injection h with h; exact h.symm⟩
    | none =>
      refine .inr ⟨?_, rfl, by injection h with h; exact h.symm⟩
      unfold State.contextRefusal at hc
      split at hc
      · cases hc
      · rename_i hi
        split at hc
        · rename_i hf
          refine ⟨?_, hf⟩
          cases hs : s.issuer with
          | foreground => rfl
          | interrupt => exact absurd hs hi
        · cases hc

theorem State.needsInit_of_inited (s : State) (h : s.inited = true) : s.needsInit = none := by
  simp [State.needsInit, h]

theorem State.needsInit_of_not (s : State) (h : s.inited = false) : s.needsInit = some .notInitialised := by
  simp [State.needsInit, h]

theorem frameRefusal_eq_none (f : Frame) : frameRefusal f = none ↔ frameOk f = true := by
  unfold frameRefusal frameOk
  cases lengthOk f <;> cases fitsIdent f.id f.ext <;> simp

theorem filterRefusal_eq_none (v : Word) (e : Bool) : filterRefusal v e = none ↔ fitsIdent v e = true := by
  unfold filterRefusal
  cases fitsIdent v e <;> simp

/-! ## The handshake -/

theorem State.issueXfer_of_not_busy (s : State) (i : Nat) (image : XferImage) (p : Fg) (h : s.xfer.busy = false) :
    s.issueXfer i image p = { s with xfer := ⟨true, i, image⟩, fg := p } := by
  simp [State.issueXfer, h]

/-- All that the issue step can do. -/
theorem State.issueXfer_cases (s : State) (i : Nat) (image : XferImage) (p : Fg) :
    s.issueXfer i image p = s ∨
      (s.xfer.busy = false ∧ s.issueXfer i image p = { s with xfer := ⟨true, i, image⟩, fg := p }) := by
  cases h : s.xfer.busy
  · exact .inr ⟨rfl, s.issueXfer_of_not_busy i image p h⟩
  · exact .inl (by simp [State.issueXfer, h])

theorem State.waitXfer_of_not_busy (s : State) (seen : Nat) (again : Nat → Fg) (done : State → State)
    (h : s.xfer.busy = false) : s.waitXfer seen again done = done s := by
  simp [State.waitXfer, h]

/-- All that the wait step can do: end, hold, count, or stall. -/
theorem State.waitXfer_cases (s : State) (seen : Nat) (again : Nat → Fg) (done : State → State) :
    (s.xfer.busy = false ∧ s.waitXfer seen again done = done s) ∨
    (s.xfer.busy = true ∧ (s.waitXfer seen again done = s ∨ s.waitXfer seen again done = s.goto (again (seen + 1)) ∨
      s.waitXfer seen again done = s.raiseHandshakeStall)) := by
  cases h : s.xfer.busy
  · exact .inl ⟨rfl, s.waitXfer_of_not_busy seen again done h⟩
  · refine .inr ⟨rfl, ?_⟩
    unfold State.waitXfer
    rw [if_pos h]
    split
    · exact .inl rfl
    · split
      · exact .inr (.inr rfl)
      · exact .inr (.inl rfl)

/-! ## Events -/

@[simp] theorem State.event_true (s : State) (effect : State → State) : s.event true effect = .next (effect s) := rfl

@[simp] theorem State.event_false (s : State) (effect : State → State) : s.event false effect = .next s := rfl

/-- All that an event can do: nothing, or its effect. -/
theorem State.event_cases {s t : State} {b : Bool} {effect : State → State} (h : s.event b effect = .next t) :
    (b = false ∧ t = s) ∨ (b = true ∧ t = effect s) := by
  cases b <;> injection h with h <;> simp [h]

theorem State.slotEvent_cases {s t : State} {i n : Nat} {b : Bool} {effect : State → State}
    (h : s.slotEvent i n b effect = .next t) : i < n ∧ ((b = false ∧ t = s) ∨ (b = true ∧ t = effect s)) := by
  unfold State.slotEvent at h
  split at h
  · cases h
  · exact ⟨by omega, State.event_cases h⟩

theorem State.slotEvent_of_lt (s : State) (i n : Nat) (b : Bool) (effect : State → State) (h : i < n) :
    s.slotEvent i n b effect = s.event b effect := by
  simp [State.slotEvent, Nat.not_le.2 h]

/-! ## Raising indications -/

/-- Raising the status indication changes no field but `intpnd`. -/
theorem State.raiseStatus_eq (s : State) :
    s.raiseStatus = { s with intpnd := { s.intpnd with status := if s.ctrl.ie then true else s.intpnd.status } } := by
  unfold State.raiseStatus
  cases h : s.ctrl.ie <;> simp [State.setStatusPending]

/-- Raising a slot indication changes no field but `intpnd`. -/
theorem State.raiseSlot_eq (s : State) (i : Nat) :
    s.raiseSlot i =
      { s with intpnd := { s.intpnd with slot := if s.ctrl.ie then s.intpnd.slot.set i true else s.intpnd.slot } } := by
  unfold State.raiseSlot
  cases h : s.ctrl.ie <;> simp [State.setSlotPending]

/-! ## The two IRQ effects -/

/-- The effect of IRQ_RX as one record. -/
theorem irqRxEffect_eq (i : Nat) (s : State) :
    irqRxEffect i s =
      if s.stat.err then { s with
        stat := { s.stat with err := false }
        intpnd := { s.intpnd with slot := s.intpnd.slot.set i false } }
      else { s with
        sh := s.sh.set i (shadowOf (s.moAt i))
        rdy := s.rdy.set i true
        intpnd := { s.intpnd with slot := s.intpnd.slot.set i false } } := by
  unfold irqRxEffect
  cases s.stat.err <;> rfl

/-- All that IRQ_STATUS can do: the four branches and the overflow. -/
theorem irqStatusEffect_cases (s : State) :
    (s.stat.boff = true ∧ ones s.cfg.CNTW ≤ s.cnt.boff ∧ irqStatusEffect s = s.raiseCounterOverflow) ∨
    (s.stat.boff = true ∧ s.cnt.boff < ones s.cfg.CNTW ∧ irqStatusEffect s = { s with
      cnt := { s.cnt with boff := s.cnt.boff + 1 }
      ctrl := { s.ctrl with init := false }
      intpnd := { s.intpnd with status := false } }) ∨
    (s.stat.boff = false ∧ s.stat.ewarn = true ∧ ones s.cfg.CNTW ≤ s.cnt.ewarn ∧
      irqStatusEffect s = s.raiseCounterOverflow) ∨
    (s.stat.boff = false ∧ s.stat.ewarn = true ∧ s.cnt.ewarn < ones s.cfg.CNTW ∧ irqStatusEffect s = { s with
      cnt := { s.cnt with ewarn := s.cnt.ewarn + 1 }
      intpnd := { s.intpnd with status := false } }) ∨
    (s.stat.boff = false ∧ s.stat.ewarn = false ∧ irqStatusEffect s = s.setStatusPending false) := by
  unfold irqStatusEffect
  cases hb : s.stat.boff
  · cases he : s.stat.ewarn
    · exact .inr (.inr (.inr (.inr ⟨rfl, rfl, rfl⟩)))
    · by_cases hc : ones s.cfg.CNTW ≤ s.cnt.ewarn
      · exact .inr (.inr (.inl ⟨rfl, rfl, hc, by simp [State.counterFull, hc]⟩))
      · exact .inr (.inr (.inr (.inl ⟨rfl, rfl, by omega, by simp [State.counterFull, hc, State.setStatusPending]⟩)))
  · by_cases hc : ones s.cfg.CNTW ≤ s.cnt.boff
    · exact .inl ⟨rfl, hc, by simp [State.counterFull, hc]⟩
    · exact .inr (.inl ⟨rfl, by omega, by simp [State.counterFull, hc, State.setStatusPending, State.setHalt]⟩)

/-! ## Completion of a transfer -/

/-- A FILTER image lands. -/
theorem xferDoneEffect_filter (s : State) {id mask : Ident} {xtd : Bool} (h : s.xfer.image = .filter id mask xtd) :
    xferDoneEffect s = { s with
      mo := s.mo.set s.xfer.target ((s.moAt s.xfer.target).withFilter id mask xtd)
      xfer := { s.xfer with busy := false } } := by
  simp [xferDoneEffect, h, State.setMo]

/-- A TXFRAME image lands. -/
theorem xferDoneEffect_txframe (s : State) {id : Ident} {xtd : Bool} {dlc : Dlc} {w : DataWords}
    (h : s.xfer.image = .txframe id xtd dlc w) :
    xferDoneEffect s = { s with
      mo := s.mo.set s.xfer.target (txObject id xtd dlc w (Config.draw 29 (.txMask s.xfer.target) s.draws))
      xfer := { s.xfer with busy := false }
      txSeq := s.txSeq.filter (· ≠ s.xfer.target) ++ [s.xfer.target]
      draws := s.draws + 1 } := by
  simp [xferDoneEffect, h, State.setMo]

/-! ## Abandonment -/

/-- The slots after an abandonment, read one by one. -/
theorem moAt_abandon (l : List MsgObj) (lost : List Nat) (i : Nat) :
    (l.mapIdx fun j m => if j ∈ lost then { m with txrqst := false } else m).getD i MsgObj.none =
      if i ∈ lost then { l.getD i MsgObj.none with txrqst := false } else l.getD i MsgObj.none := by
  by_cases hi : i < l.length
  · simp [List.getD, hi]
  · by_cases hm : i ∈ lost <;> simp [List.getD, Nat.le_of_not_lt hi, hm, MsgObj.none]

theorem busoffEffect_moAt (lost : List Nat) (e : Bool) (s : State) (i : Nat) :
    (busoffEffect lost e s).moAt i = if i ∈ lost then { s.moAt i with txrqst := false } else s.moAt i :=
  moAt_abandon s.mo lost i

theorem State.badSlot_eq_none (s : State) (lost : List Nat) : s.badSlot lost = none ↔ ∀ i ∈ lost, i < s.cfg.N := by
  simp [State.badSlot, List.find?_eq_none]

theorem State.abandonable_iff (s : State) (lost : List Nat) :
    s.abandonable lost = true ↔ ∀ i ∈ lost, s.cfg.NRX ≤ i ∧ i < s.cfg.N ∧ s.txPending i = true := by
  simp [State.abandonable, List.all_eq_true, and_assoc]

/-- When ENV_RX is enabled (R106). -/
theorem State.rxEnabled_iff (s : State) (i : Nat) (f : Frame) :
    s.rxEnabled i f = true ↔ i < s.cfg.NRX ∧ s.ctrl.init = false ∧ s.stat.boff = false ∧ frameOk f = true ∧
      accepts (s.moAt i) f = true ∧
      (s.cfg.rxMatch = .lowestIndex → ∀ j, j < i → accepts (s.moAt j) f = false) := by
  unfold State.rxEnabled State.onBus State.rxPolicyAllows
  cases s.cfg.rxMatch <;> simp [leastIn_eq_none] <;> tauto

/-- When ENV_TX_DONE is enabled (R107). -/
theorem State.txEnabled_iff (s : State) (i : Nat) (hi : i < s.cfg.N) :
    s.txEnabled i = true ↔ s.cfg.NRX ≤ i ∧ s.ctrl.init = false ∧ s.stat.boff = false ∧ (s.moAt i).txrqst = true ∧
      (s.moAt i).dir = true ∧
      (s.cfg.txOrder = .lowestIndex → ∀ j, s.cfg.NRX ≤ j → j < i → s.txPending j = false) ∧
      (s.cfg.txOrder = .programmingOrder → s.txSeq.head? = some i) := by
  unfold State.txEnabled State.onBus State.txPolicyAllows
  cases s.cfg.txOrder <;> simp [leastIn_eq_none, hi] <;> tauto

/-- When ENV_BUSOFF and ENV_SILENT_HALT are enabled (R109, R110). -/
theorem State.busoffEnabled_iff (s : State) (lost : List Nat) (hl : ∀ i ∈ lost, i < s.cfg.N) :
    s.busoffEnabled lost = true ↔
      s.ctrl.init = false ∧ s.stat.boff = false ∧ ∀ i ∈ lost, s.cfg.NRX ≤ i ∧ s.txPending i = true := by
  simp only [State.busoffEnabled, State.onBus, Bool.and_eq_true, Bool.not_eq_true', State.abandonable_iff, and_assoc]
  refine and_congr_right fun _ => and_congr_right fun _ => forall₂_congr fun i hi => ?_
  simp [hl i hi]

/-! ## Running on -/

@[simp] theorem runFg_zero (s : State) : runFg 0 s = s := rfl

theorem runFg_succ (k : Nat) (s : State) : runFg (k + 1) s = runFg k (fgStep s) := rfl

@[simp] theorem runPrompt_zero (s : State) : runPrompt 0 s = s := rfl

theorem runPrompt_succ (k : Nat) (s : State) : runPrompt (k + 1) s = runPrompt k (promptStep s) := rfl

/-- Running on for a sum of steps is running on twice. -/
theorem runFg_add (a b : Nat) (s : State) : runFg (a + b) s = runFg b (runFg a s) := by
  induction a generalizing s with
  | zero => simp
  | succ a ih => rw [Nat.succ_add, runFg_succ, runFg_succ, ih]

/-- The prompt schedule completes a transfer that is waited for. -/
theorem promptStep_of_waiting (s : State) (hw : s.waiting = true) (hb : s.xfer.busy = true) :
    promptStep s = xferDoneEffect s := by
  simp [promptStep, hw, hb]

/-- Otherwise it is the foreground's micro-step. -/
theorem promptStep_of_not_busy (s : State) (hb : s.xfer.busy = false) : promptStep s = fgStep s := by
  simp [promptStep, hb]

end Sys2Proof.Machine
end

