-- ==== Sys2Proof/Laws/Memory.lean ====
section
/-! SUPPORT. The storage form `Memory.wf` (spec/10_state.md R11, R14 to R16, R20, R25): every operation that writes an
array keeps it, and the reset state of every block has it. -/

namespace Sys2Proof.Machine

theorem setMo_keeps_wf (s : State) (i : Nat) (m : MsgObj) (h : Memory.wf s) : Memory.wf (s.setMo i m) := by
  simpa [Memory.wf] using h

theorem setSh_keeps_wf (s : State) (i : Nat) (e : Shadow) (h : Memory.wf s) : Memory.wf (s.setSh i e) := by
  simpa [Memory.wf] using h

theorem setRdy_keeps_wf (s : State) (i : Nat) (b : Bool) (h : Memory.wf s) : Memory.wf (s.setRdy i b) := by
  simpa [Memory.wf] using h

theorem setInuse_keeps_wf (s : State) (i : Nat) (h : Memory.wf s) : Memory.wf (s.setInuse i) := by
  simpa [Memory.wf] using h

theorem setSlotPending_keeps_wf (s : State) (i : Nat) (b : Bool) (h : Memory.wf s) :
    Memory.wf (s.setSlotPending i b) := by
  simpa [Memory.wf, State.setSlotPending] using h

theorem setStatusPending_keeps_wf (s : State) (b : Bool) (h : Memory.wf s) : Memory.wf (s.setStatusPending b) := h

theorem setHalt_keeps_wf (s : State) (b : Bool) (h : Memory.wf s) : Memory.wf (s.setHalt b) := h

theorem goto_keeps_wf (s : State) (p : Fg) (h : Memory.wf s) : Memory.wf (s.goto p) := h

theorem begin_keeps_wf (s : State) (h : Memory.wf s) : Memory.wf s.begin := h

theorem ret_keeps_wf (s : State) (r : ResultCode) (h : Memory.wf s) : Memory.wf (s.ret r) := h

theorem dropHead_keeps_wf (s : State) (h : Memory.wf s) : Memory.wf s.dropHead := h

theorem microEnqueue_keeps_wf (f : Frame) (s : State) (h : Memory.wf s) : Memory.wf (microEnqueue f s) := by
  unfold microEnqueue
  split
  · exact h
  · simpa [Memory.wf] using h

theorem raiseSlot_keeps_wf (s : State) (i : Nat) (h : Memory.wf s) : Memory.wf (s.raiseSlot i) := by
  unfold State.raiseSlot
  split
  · exact setSlotPending_keeps_wf s i true h
  · exact h

theorem raiseStatus_keeps_wf (s : State) (h : Memory.wf s) : Memory.wf s.raiseStatus := by
  rw [State.raiseStatus_eq]
  exact h

theorem issueXfer_keeps_wf (s : State) (i : Nat) (image : XferImage) (p : Fg) (h : Memory.wf s) :
    Memory.wf (s.issueXfer i image p) := by
  obtain he | ⟨_, he⟩ := s.issueXfer_cases i image p <;> rw [he] <;> exact h

/-- The handshake's completion writes one slot (R105). -/
theorem xferDoneEffect_keeps_wf (s : State) (h : Memory.wf s) : Memory.wf (xferDoneEffect s) := by
  cases him : s.xfer.image with
  | filter id mask xtd =>
    rw [xferDoneEffect_filter s him]
    simpa [Memory.wf] using h
  | txframe id xtd dlc w =>
    rw [xferDoneEffect_txframe s him]
    simpa [Memory.wf] using h

/-- A received frame overwrites one slot (R106). -/
theorem rxEffect_keeps_wf (i : Nat) (f : Frame) (s : State) (h : Memory.wf s) : Memory.wf (rxEffect i f s) :=
  raiseSlot_keeps_wf _ i (setMo_keeps_wf s i _ h)

/-- A transmission clears one request bit (R107). -/
theorem txDoneEffect_keeps_wf (i : Nat) (s : State) (h : Memory.wf s) : Memory.wf (txDoneEffect i s) :=
  setMo_keeps_wf s i _ h

/-- Bus-off clears the request bits of a set of slots (R109). -/
theorem busoffEffect_keeps_wf (lost : List Nat) (e : Bool) (s : State) (h : Memory.wf s) :
    Memory.wf (busoffEffect lost e s) := by
  simpa [Memory.wf, busoffEffect] using h

/-- IRQ_RX writes one shadow entry and two flags (R81). -/
theorem irqRxEffect_keeps_wf (i : Nat) (s : State) (h : Memory.wf s) : Memory.wf (irqRxEffect i s) := by
  rw [irqRxEffect_eq]
  split <;> simpa [Memory.wf] using h

/-- IRQ_STATUS writes no array (R99). -/
theorem irqStatusEffect_keeps_wf (s : State) (h : Memory.wf s) : Memory.wf (irqStatusEffect s) := by
  obtain ⟨_, _, he⟩ | ⟨_, _, he⟩ | ⟨_, _, _, he⟩ | ⟨_, _, _, he⟩ | ⟨_, _, he⟩ := irqStatusEffect_cases s <;>
    rw [he] <;> exact h

/-- The reset state has the storage form, for every choice of parameters (R36). -/
theorem afterReset_wf (p : Params) (n : Nat) (inputs : List Input) : Memory.wf (State.afterReset p n inputs) := by
  simp [Memory.wf, State.afterReset]

theorem reset_wf : Memory.wf State.reset := afterReset_wf _ _ _

end Sys2Proof.Machine
end

