-- ==== Sys2Proof/Laws/PerInstr.lean ====
section
/-! SUPPORT. One statement about every operation as syntax, made per constructor of `Instr`: its encoding begins with
its code, and the code's class (spec/30_encoding.md R56) says which agent it belongs to (R55, R68). -/

namespace Sys2Proof.Laws.HeadCode

/-- The first byte of the encoding is the code; its class is 0 to 4; class 0 is exactly the host operations, the codes
1 to 6. -/
def Statement (i : Instr) : Prop :=
  (encode i).head? = some i.opcode ∧ opClassOf i.opcode ≤ 4 ∧ (i.isHost = true ↔ opClassOf i.opcode = 0) ∧
    (i.isHost = true ↔ 1 ≤ i.opcode.toNat ∧ i.opcode.toNat ≤ 6)

theorem init (baud : Baud) : Statement (.init baud) := by
  refine ⟨rfl, ?_, ?_, ?_⟩ <;> simp only [Instr.isHost, Instr.opcode] <;> decide

theorem registerFilter (mask : Word) (value : Word) (extended : Bool) : Statement (.registerFilter mask value extended) := by
  refine ⟨rfl, ?_, ?_, ?_⟩ <;> simp only [Instr.isHost, Instr.opcode] <;> decide

theorem send (frame : Frame) : Statement (.send frame) := by
  refine ⟨rfl, ?_, ?_, ?_⟩ <;> simp only [Instr.isHost, Instr.opcode] <;> decide

theorem poll : Statement (.poll) := by
  refine ⟨rfl, ?_, ?_, ?_⟩ <;> simp only [Instr.isHost, Instr.opcode] <;> decide

theorem tryReceive : Statement (.tryReceive) := by
  refine ⟨rfl, ?_, ?_, ?_⟩ <;> simp only [Instr.isHost, Instr.opcode] <;> decide

theorem rdCounters : Statement (.rdCounters) := by
  refine ⟨rfl, ?_, ?_, ?_⟩ <;> simp only [Instr.isHost, Instr.opcode] <;> decide

theorem reserveReceiveSlot (mask : Word) (value : Word) (extended : Bool) : Statement (.reserveReceiveSlot mask value extended) := by
  refine ⟨rfl, ?_, ?_, ?_⟩ <;> simp only [Instr.isHost, Instr.opcode] <;> decide

theorem xferWait (target : Nat) (image : XferImage) : Statement (.xferWait target image) := by
  refine ⟨rfl, ?_, ?_, ?_⟩ <;> simp only [Instr.isHost, Instr.opcode] <;> decide

theorem precheckHalt : Statement (.precheckHalt) := by
  refine ⟨rfl, ?_, ?_, ?_⟩ <;> simp only [Instr.isHost, Instr.opcode] <;> decide

theorem trySend (frame : Frame) : Statement (.trySend frame) := by
  refine ⟨rfl, ?_, ?_, ?_⟩ <;> simp only [Instr.isHost, Instr.opcode] <;> decide

theorem enqueue (frame : Frame) : Statement (.enqueue frame) := by
  refine ⟨rfl, ?_, ?_, ?_⟩ <;> simp only [Instr.isHost, Instr.opcode] <;> decide

theorem drainOne : Statement (.drainOne) := by
  refine ⟨rfl, ?_, ?_, ?_⟩ <;> simp only [Instr.isHost, Instr.opcode] <;> decide

theorem irqRx (slot : Nat) : Statement (.irqRx slot) := by
  refine ⟨rfl, ?_, ?_, ?_⟩ <;> simp only [Instr.isHost, Instr.opcode] <;> decide

theorem irqStatus : Statement (.irqStatus) := by
  refine ⟨rfl, ?_, ?_, ?_⟩ <;> simp only [Instr.isHost, Instr.opcode] <;> decide

theorem envXferDone : Statement (.envXferDone) := by
  refine ⟨rfl, ?_, ?_, ?_⟩ <;> simp only [Instr.isHost, Instr.opcode] <;> decide

theorem envRx (slot : Nat) (frame : Frame) : Statement (.envRx slot frame) := by
  refine ⟨rfl, ?_, ?_, ?_⟩ <;> simp only [Instr.isHost, Instr.opcode] <;> decide

theorem envTxDone (slot : Nat) : Statement (.envTxDone slot) := by
  refine ⟨rfl, ?_, ?_, ?_⟩ <;> simp only [Instr.isHost, Instr.opcode] <;> decide

theorem envEwarnOn : Statement (.envEwarnOn) := by
  refine ⟨rfl, ?_, ?_, ?_⟩ <;> simp only [Instr.isHost, Instr.opcode] <;> decide

theorem envEwarnOff : Statement (.envEwarnOff) := by
  refine ⟨rfl, ?_, ?_, ?_⟩ <;> simp only [Instr.isHost, Instr.opcode] <;> decide

theorem envBusoff (lost : List Nat) (ewarn : Bool) : Statement (.envBusoff lost ewarn) := by
  refine ⟨rfl, ?_, ?_, ?_⟩ <;> simp only [Instr.isHost, Instr.opcode] <;> decide

theorem envSilentHalt (lost : List Nat) (ewarn : Bool) : Statement (.envSilentHalt lost ewarn) := by
  refine ⟨rfl, ?_, ?_, ?_⟩ <;> simp only [Instr.isHost, Instr.opcode] <;> decide

theorem envRecovered : Statement (.envRecovered) := by
  refine ⟨rfl, ?_, ?_, ?_⟩ <;> simp only [Instr.isHost, Instr.opcode] <;> decide

theorem envErrSet (indicate : Bool) : Statement (.envErrSet indicate) := by
  refine ⟨rfl, ?_, ?_, ?_⟩ <;> simp only [Instr.isHost, Instr.opcode] <;> decide

theorem reset : Statement (.reset) := by
  refine ⟨rfl, ?_, ?_, ?_⟩ <;> simp only [Instr.isHost, Instr.opcode] <;> decide

end Sys2Proof.Laws.HeadCode
end

