-- ==== Sys2Proof/Laws/Steps.lean ====
section
/-! SUPPORT. What the operations that a step is made of leave alone, and how a step takes its input: a property that every
branch of a shared operation has holds after the operation, so a frame is proved branch by branch and no operation is
unfolded; the slot that an XFER_WAIT may name; and the input that offers an operation. -/

namespace Sys2Proof.Machine

/-! ## Whatever every branch keeps, the operation keeps -/

theorem State.waitXfer_keeps (P : State → Prop) {s : State} (seen : Nat) (again : Nat → Fg) {done : State → State}
    (hold : P s) (count : P (s.goto (again (seen + 1)))) (stall : P s.raiseHandshakeStall) (ends : P (done s)) :
    P (s.waitXfer seen again done) := by
  rcases s.waitXfer_cases seen again done with ⟨-, h⟩ | ⟨-, h | h | h⟩ <;> rw [h] <;> assumption

theorem State.issueXfer_keeps (P : State → Prop) {s : State} (i : Nat) (image : XferImage) (p : Fg) (hold : P s)
    (issues : s.xfer.busy = false → P { s with xfer := ⟨true, i, image⟩, fg := p }) : P (s.issueXfer i image p) := by
  rcases s.issueXfer_cases i image p with h | ⟨hb, h⟩ <;> rw [h]
  · exact hold
  · exact issues hb

theorem State.issue_keeps (P : State → Prop) {s t : State} {pre : Option RefuseReason} {body : State → State}
    (h : s.issue pre body = .next t) (refuses : ∀ r, P (s.raiseRefuse r)) (runs : s.free → P (body s.begin)) : P t := by
  rcases State.issue_cases h with ⟨r, rfl⟩ | ⟨hf, -, rfl⟩
  · exact refuses r
  · exact runs hf

theorem State.event_keeps (P : State → Prop) {s t : State} {b : Bool} {effect : State → State}
    (h : s.event b effect = .next t) (idle : P s) (happens : b = true → P (effect s)) : P t := by
  rcases State.event_cases h with ⟨-, rfl⟩ | ⟨hb, rfl⟩
  · exact idle
  · exact happens hb

theorem State.slotEvent_keeps (P : State → Prop) {s t : State} {i n : Nat} {b : Bool} {effect : State → State}
    (h : s.slotEvent i n b effect = .next t) (idle : P s) (happens : i < n → b = true → P (effect s)) : P t := by
  rcases State.slotEvent_cases h with ⟨hi, ⟨-, rfl⟩ | ⟨hb, rfl⟩⟩
  · exact idle
  · exact happens hi hb

/-! ## The slot an XFER_WAIT may name -/

/-- The scan's slot, for either kind of transfer (R75, R89). -/
theorem State.freeSlotFor_eq_some (s : State) (kind : XferKind) (i : Nat) :
    s.freeSlotFor kind = some i ↔ (kind = .filter → s.leastFreeRx i) ∧ (kind = .txframe → s.leastFreeTx i) := by
  cases kind
  · simp [State.freeSlotFor, State.freeRxSlot_eq_some, State.leastFreeRx]
  · simp [State.freeSlotFor, State.freeTxSlot_eq_some, State.leastFreeTx]

theorem State.xferAllowed_iff (s : State) (i : Nat) (image : XferImage) :
    s.xferAllowed i image = true ↔
      imageOk image = true ∧ (image.kind = .filter → s.leastFreeRx i) ∧ (image.kind = .txframe → s.leastFreeTx i) := by
  simp [State.xferAllowed, State.freeSlotFor_eq_some]

/-- Such a slot lies in the region of the image's kind (R12). -/
theorem State.xferOk_of_allowed (s : State) (i : Nat) (image : XferImage) (h : s.xferAllowed i image = true) :
    s.xferOk i image = true := by
  obtain ⟨him, hf, ht⟩ := (s.xferAllowed_iff i image).1 h
  cases image with
  | filter => simp [State.xferOk, him, XferImage.kind, (hf rfl).1]
  | txframe => simp [State.xferOk, him, XferImage.kind, (ht rfl).1, (ht rfl).2.1]

/-- And nothing holds it (R76, R89). -/
theorem State.slotFree_of_allowed (s : State) (i : Nat) (image : XferImage) (h : s.xferAllowed i image = true) :
    s.slotFree i image.kind := by
  obtain ⟨-, hf, ht⟩ := (s.xferAllowed_iff i image).1 h
  cases image with
  | filter => exact (hf rfl).2.1
  | txframe => exact (ht rfl).2.2.1

@[simp] theorem State.slotFree_filter (s : State) (i : Nat) : s.slotFree i .filter = (s.inuseAt i = false) := rfl

@[simp] theorem State.slotFree_txframe (s : State) (i : Nat) : s.slotFree i .txframe = (s.txPending i = false) := rfl

/-- Whether a slot is free depends on the in-use flags and the slots alone. -/
theorem State.slotFree_congr {s t : State} (hu : t.inuse = s.inuse) (hm : t.mo = s.mo) (i : Nat) (kind : XferKind) :
    t.slotFree i kind = s.slotFree i kind := by
  cases kind <;> simp [State.inuseAt, State.txPending, State.moAt, hu, hm]

/-- With the foreground idle no reservation is under way. -/
theorem State.not_reservingSlot_of_idle (s : State) (i : Nat) (h : s.fg = .idle) : ¬ s.reservingSlot i := by
  simp [State.reservingSlot, h]

/-- A slot that is not in use is not armed where no reservation is under way (R76). -/
theorem OrderInv.not_armed {s : State} (h : OrderInv s) (i : Nat) (hu : s.inuseAt i = false) (hr : ¬ s.reservingSlot i) :
    (s.moAt i).armed = false := by
  rw [← Bool.not_eq_true]
  intro ha
  rcases h.armed i ha with hi | hi
  · exact absurd (hu.symm.trans hi) Bool.noConfusion
  · exact hr hi

/-- The slot a set of slots stops on is one of its own, and none of the block's. -/
theorem State.badSlot_some (s : State) (lost : List Nat) (h : ∃ k ∈ lost, s.cfg.N ≤ k) :
    ∃ k ∈ lost, s.cfg.N ≤ k ∧ s.badSlot lost = some k := by
  cases hb : s.badSlot lost with
  | none =>
    obtain ⟨k, hk, hn⟩ := h
    exact absurd ((s.badSlot_eq_none lost).1 hb k hk) (Nat.not_lt.2 hn)
  | some k =>
    exact ⟨k, List.mem_of_find?_eq_some hb, by simpa using List.find?_some hb, rfl⟩

/-! ## Inputs -/

/-- The operand ports of a host operation ask for that operation (R56, R57). -/
theorem commanded_portsOf (i : Instr) (h : i.isHost = true) : commanded i.opcode (portsOf i) = some i := by
  cases i <;> first | rfl | exact absurd h Bool.false_ne_true

/-- A code the host command port does not accept asks for nothing (R68). -/
theorem commanded_eq_none (code : Byte) (o : OperandPorts) (h : ¬(1 ≤ code.toNat ∧ code.toNat ≤ 6)) :
    commanded code o = none := by
  unfold commanded
  split <;> first | rfl | omega

/-- The input that offers an operation is fetched as that operation, from the foreground. -/
theorem fetch_inputFor (s : State) (i : Instr) (rest : List Input) (h : s.inputs = inputFor i :: rest) :
    fetch s = .run i (s.fetched rest .foreground) := by
  unfold inputFor at h
  split at h
  · rename_i hi
    simp [fetch, h, fetchCommand, commanded_portsOf i hi]
  · simp [fetch, h]

/-- The bytes of an operation offer it. -/
theorem inputOf_of_decode {bytes more : List Byte} {i : Instr} (h : decode bytes = .ok (i, more)) :
    inputOf bytes = inputFor i := by
  simp [inputOf, h]

end Sys2Proof.Machine
end

