-- ==== Sys2Proof/Tests/Slice0.lean ====
section
/-! SUPPORT. The model's own tests. Expected values are those of spec/95_test_vectors.md (their names in
parentheses) or read by hand from the rules; the witnesses at the end show, for every statement that has hypotheses,
a state and operands that meet them together. -/

namespace Sys2Proof.Tests

open Sys2Proof.Machine

/-! ## Small states: instance S of spec/95_test_vectors.md -/

/-- `N = 4`, `N_RX = 2`, `QCAP = 2`, `CNT_W = 32`, no ceiling, all policies `any`. -/
def instanceS : Params :=
  { N := 4, NRX := 2, QCAP := 2, CNTW := 32, ceiling := none, irqOrder := .any, rxMatch := .any, txOrder := .any }

/-- Instance S, initialised and idle, with every slot clear. -/
def small : State :=
  { State.afterReset instanceS 0 [] with
    mo := List.replicate 4 MsgObj.none
    sh := List.replicate 2 Shadow.none
    q := ⟨[zeroFrame, zeroFrame], 0, 0⟩
    ctrl := ⟨false, true⟩
    clkdiv := 5
    bt := 0x2301
    xfer := ⟨false, 0, .filter 0 0 false⟩
    inited := true
    draws := 1 }

/-- The state after `s`, if the operation completed, has the property. -/
def afterOp (o : Outcome) (p : State → Bool) : Bool :=
  match o with
  | .next t => p t
  | .fault _ => false
  | .refused _ => false

/-- The frame of E1. -/
def frameE1 : Frame := ⟨0x123, ⟨0xAA, 0xBB, 0, 0, 0, 0, 0, 0⟩, 2, false⟩

/-- The frame of E2. -/
def frameE2 : Frame := ⟨0x18FF0001, ⟨0x11, 0x22, 0x33, 0x44, 0x55, 0x66, 0x77, 0x88⟩, 8, true⟩

/-- The frame of T1. -/
def frameT : Frame := ⟨0x321, ⟨1, 2, 3, 0, 0, 0, 0, 0⟩, 3, false⟩

/-- A receive slot armed for a standard filter. -/
def armedSlot (id mask : Ident) : MsgObj := { MsgObj.none with id := id, mask := mask, armed := true }

/-- A pending transmit slot with the frame of T1. -/
def pendingSlot : MsgObj := ⟨0x321, 0, false, true, 3, ⟨0x0201, 0x0003, 0, 0⟩, true, true, false⟩

/-- `small` with its message objects replaced. -/
def withSlots (a b c d : MsgObj) : State := { small with mo := [a, b, c, d] }

/-- Both transmit slots pending. -/
def fullTx : State := { withSlots MsgObj.none MsgObj.none pendingSlot pendingSlot with txSeq := [2, 3] }

/-- Slot 0 registered with filter 0x120 / 0x7F0 (A1). -/
def registered : State :=
  { withSlots (armedSlot 0x120 0x7F0) MsgObj.none MsgObj.none MsgObj.none with inuse := [true, false] }

/-! ## Well-formedness: an ill-formed term for each check -/

theorem test_wf_init_word_too_wide : (Instr.init ⟨5, 2 ^ 32⟩).wellFormed instanceS = false ∧
    (Instr.init ⟨2 ^ 32, 5⟩).wellFormed instanceS = false := by decide

theorem test_wf_reserve_value_too_wide : (Instr.reserveReceiveSlot 0 0x800 false).wellFormed instanceS = false := by
  decide

theorem test_wf_xferWait_filter_into_transmit_slot :
    (Instr.xferWait 2 (.filter 0 0 false)).wellFormed instanceS = false := by decide

theorem test_wf_xferWait_txframe_into_receive_slot :
    (Instr.xferWait 1 (.txframe 0 false 0 ⟨0, 0, 0, 0⟩)).wellFormed instanceS = false := by decide

theorem test_wf_xferWait_image_identifier_too_wide :
    (Instr.xferWait 0 (.filter 0x800 0 false)).wellFormed instanceS = false := by decide

theorem test_wf_xferWait_image_length_too_long :
    (Instr.xferWait 2 (.txframe 0 false 9 ⟨0, 0, 0, 0⟩)).wellFormed instanceS = false := by decide

theorem test_wf_trySend_length_too_long : (Instr.trySend { frameT with len := 9 }).wellFormed instanceS = false := by
  decide

theorem test_wf_enqueue_identifier_too_wide :
    (Instr.enqueue { frameT with id := 0x800 }).wellFormed instanceS = false := by decide

theorem test_wf_irqRx_transmit_slot : (Instr.irqRx 2).wellFormed instanceS = false := by decide

theorem test_wf_envRx_transmit_slot : (Instr.envRx 2 frameE1).wellFormed instanceS = false := by decide

theorem test_wf_envRx_bad_frame : (Instr.envRx 0 { frameE1 with len := 9 }).wellFormed instanceS = false := by decide

theorem test_wf_envTxDone_receive_slot : (Instr.envTxDone 1).wellFormed instanceS = false := by decide

theorem test_wf_envTxDone_no_slot : (Instr.envTxDone 4).wellFormed instanceS = false := by decide

theorem test_wf_envBusoff_not_rising : (Instr.envBusoff [3, 2] false).wellFormed instanceS = false := by decide

theorem test_wf_envSilentHalt_receive_slot : (Instr.envSilentHalt [1] false).wellFormed instanceS = false := by decide

theorem test_wf_index_too_big_for_its_field :
    (Instr.envTxDone 65536).wellFormed { instanceS with N := 70000 } = false := by decide

theorem test_wf_accepts : (Instr.xferWait 3 (.txframe 0x321 false 3 ⟨1, 2, 3, 4⟩)).wellFormed instanceS = true ∧
    (Instr.envBusoff [2, 3] true).wellFormed instanceS = true ∧ (Instr.irqRx 1).wellFormed instanceS = true := by decide

/-! ## Decoding: a word for every constructor (R56, R57, R58, R62, R63, R64) -/

theorem test_decode_init_and_filter :
    decode [0x01, 5, 0, 0, 0, 0x01, 0x23, 0, 0] = .ok (.init ⟨5, 0x2301⟩, []) ∧
    decode [0x02, 0xFF, 0x07, 0, 0, 0x23, 0x01, 0, 0, 0] = .ok (.registerFilter 0x7FF 0x123 false, []) ∧
    decode [0x11, 0, 0, 0xFF, 0x1F, 0x01, 0, 0xFF, 0x18, 1] = .ok (.reserveReceiveSlot 0x1FFF0000 0x18FF0001 true, []) ∧
    decode [0x12, 0, 0, 0x23, 0x01, 0, 0, 0xFF, 0x07, 0, 0, 0, 0, 0, 0, 0, 0, 0, 0, 0, 0] =
      .ok (.xferWait 0 (.filter 0x123 0x7FF false), []) := by decide

theorem test_decode_transmit_and_queue :
    decode [0x13] = .ok (.precheckHalt, []) ∧
    decode [0x14, 0x21, 0x03, 0, 0, 1, 2, 3, 0, 0, 0, 0, 0, 3, 0] = .ok (.trySend frameT, []) ∧
    decode [0x15, 0x23, 0x01, 0, 0, 0xAA, 0xBB, 0, 0, 0, 0, 0, 0, 2, 0] = .ok (.enqueue frameE1, []) ∧
    decode [0x16] = .ok (.drainOne, []) ∧
    decode [0x03, 0x01, 0x00, 0xFF, 0x18, 0x11, 0x22, 0x33, 0x44, 0x55, 0x66, 0x77, 0x88, 0x08, 0x01] =
      .ok (.send frameE2, []) ∧
    decode [0x04] = .ok (.poll, []) := by decide

theorem test_decode_receive_and_monitor :
    decode [0x05] = .ok (.tryReceive, []) ∧ decode [0x06] = .ok (.rdCounters, []) ∧
    decode [0x21, 0x13, 0x00] = .ok (.irqRx 19, []) ∧ decode [0x22] = .ok (.irqStatus, []) := by decide

theorem test_decode_controller :
    decode [0x31] = .ok (.envXferDone, []) ∧
    decode [0x32, 1, 0, 0x23, 0x01, 0, 0, 0xAA, 0xBB, 0, 0, 0, 0, 0, 0, 2, 0] = .ok (.envRx 1 frameE1, []) ∧
    decode [0x33, 3, 0] = .ok (.envTxDone 3, []) ∧
    decode [0x34] = .ok (.envEwarnOn, []) ∧ decode [0x35] = .ok (.envEwarnOff, []) ∧
    decode [0x36, 1, 2, 0, 2, 0, 3, 0] = .ok (.envBusoff [2, 3] true, []) ∧
    decode [0x37, 0, 0, 0] = .ok (.envSilentHalt [] false, []) ∧
    decode [0x38] = .ok (.envRecovered, []) ∧ decode [0x39, 1] = .ok (.envErrSet true, []) ∧
    decode [0x41] = .ok (.reset, []) := by decide

/-- Byte 13 of a frame record: bits 7 to 1 are ignored (E4). -/
theorem test_decode_frame_tag_ignores_high_bits :
    decode [0x14, 0x21, 0x03, 0, 0, 1, 2, 3, 0, 0, 0, 0, 0, 3, 0xFE] = .ok (.trySend frameT, []) ∧
    decode [0x14, 0x21, 0x03, 0, 0, 1, 2, 3, 0, 0, 0, 0, 0, 3, 0xFF] = .ok (.trySend { frameT with ext := true }, []) := by
  decide

/-- What the decoder rejects, by name. -/
theorem test_decode_rejects :
    decode [] = .error .noCode ∧ decode [0x07] = .error (.illegalCode 0x07) ∧ decode [0x3A] = .error (.illegalCode 0x3A) ∧
    decode [0x33, 3] = .error .truncated ∧ decode [0x21, 0x00, 0x80] = .error .badIndication ∧
    decode [0x12, 0, 0, 0, 0, 0, 0x40, 0, 0, 0, 0, 0, 0, 0, 0, 0, 0, 0, 0, 0, 0] = .error .badImage := by decide

/-- The numbered bits of a table row, low byte first. -/
theorem test_decodeTableWord :
    decodeTableWord 8 0x41 = some .reset ∧ decodeTableWord 8 0x33 = some (.envTxDone 0) ∧ decodeTableWord 8 0x42 = none := by
  decide

/-- Packed views (E1, E2, E5 to E9). -/
theorem test_packed_views :
    frameRecord frameE1 = 0x0002000000000000BBAA00000123 ∧ frameRecord frameE2 = 0x0108887766554433221118FF0001 ∧
    imageBits (filterImage 0x7FF 0x123 false) = 0x000007FF00000123 ∧
    imageBits (txImage frameT) = 0x00000000000302010033_00000000_C0000321 ∧
    imageBits (txImage frameE2) = 0x88776655443322110038_00000000_F8FF0001 ∧
    (shadowBits ⟨0x123, false, 2, ⟨0xBBAA, 0, 0, 0⟩⟩).toNat = 0xBBAA_0002_00000123 ∧
    (shadowBits ⟨0x18FF0001, true, 8, ⟨0x2211, 0x4433, 0x6655, 0x8877⟩⟩).toNat = 0x8877665544332211001818FF0001 ∧
    indicated 0x0013 = some (.irqRx 19) ∧ indicated 0x8000 = some .irqStatus ∧ indicated 0x8001 = none := by decide

/-- Register views (R60, R66). -/
theorem test_register_views :
    ctrlWord ⟨true, false⟩ = 1 ∧ ctrlWord ⟨false, true⟩ = 2 ∧ statWord ⟨true, false, false⟩ = 1 ∧
    statWord ⟨false, true, false⟩ = 2 ∧ statWord ⟨false, false, true⟩ = 4 ∧ slotBits [false, true, true] = 6 ∧
    resultNumber .noMessage = 4 ∧ resultNumber .queueFull = 2 := by decide

/-! ## Operands and flags -/

/-- Packing (P3, P5). -/
theorem test_pack :
    pack ⟨1, 2, 3, 4, 5, 6, 7, 8⟩ = ⟨0x0201, 0x0403, 0x0605, 0x0807⟩ ∧
    pack ⟨0x00, 0x80, 0x7F, 0x00, 0x00, 0x01, 0xFF, 0x00⟩ = ⟨0x8000, 0x007F, 0x0100, 0x00FF⟩ ∧
    unpack ⟨0x0201, 0x0403, 0x0605, 0x0807⟩ = ⟨1, 2, 3, 4, 5, 6, 7, 8⟩ := by decide

/-- Acceptance (A1 to A7, A10 to A12). -/
theorem test_accepts :
    accepts (armedSlot 0x120 0x7F0) { frameE1 with id := 0x123 } = true ∧
    accepts (armedSlot 0x120 0x7F0) { frameE1 with id := 0x133 } = false ∧
    accepts (armedSlot 0x120 0x7F0) { frameE1 with ext := true } = false ∧
    accepts (armedSlot 0x123 0x7FF) { frameE1 with id := 0x122 } = false ∧
    accepts (armedSlot 0 0) { frameE1 with id := 0x7FF } = true ∧
    accepts (armedSlot 0 0) { frameE1 with id := 0x7FF, ext := true } = false ∧
    accepts { armedSlot 0x18FF0000 0x1FFF0000 with xtd := true } { frameE2 with id := 0x18FF1234 } = true ∧
    accepts { armedSlot 0x18FF0001 0x1FFFFFFF with xtd := true } { frameE2 with id := 0x18FF0002 } = false ∧
    accepts (armedSlot 0x123 0x1FFFFFFF) frameE1 = true ∧
    accepts { armedSlot 0x123 0x7FF with armed := false } frameE1 = false := by decide

/-! ## Operations, one step each -/

/-- INIT from reset is accepted and starts (F1); POLL is not (F2). -/
theorem test_init_and_notInitialised :
    afterOp (exec (.init ⟨5, 0x2301⟩) State.reset) (fun t => decide (t.fg = .init2 ⟨5, 0x2301⟩) && t.ctrl.init) = true ∧
    afterOp (exec .poll State.reset) (fun t => decide (t.refused = some .notInitialised) && decide (t.fg = .idle)) = true := by
  decide

theorem test_init_twice : afterOp (exec (.init ⟨5, 0x2301⟩) small) (fun t => decide (t.refused = some .initTwice)) = true := by
  decide

/-- Operand refusals and their boundaries (E11). -/
theorem test_operand_refusals :
    afterOp (exec (.send { frameE1 with len := 9 }) small) (fun t => decide (t.refused = some .badLength)) = true ∧
    afterOp (exec (.send { frameE1 with len := 8 }) small) (fun t => decide (t.refused = none)) = true ∧
    afterOp (exec (.send { frameE1 with id := 0x800 }) small) (fun t => decide (t.refused = some .badIdentifier)) = true ∧
    afterOp (exec (.send { frameE1 with id := 0x7FF }) small) (fun t => decide (t.refused = none)) = true ∧
    afterOp (exec (.send { frameE2 with id := 0x20000000 }) small) (fun t => decide (t.refused = some .badIdentifier)) = true ∧
    afterOp (exec (.registerFilter 0x7FF 0x800 false) small) (fun t => decide (t.refused = some .badFilterValue)) = true := by
  decide

/-- REGISTER_FILTER finds slot 0 and masks interrupts (F3); with all slots in use it leaves the gate alone (F4). -/
theorem test_registerFilter :
    afterOp (exec (.registerFilter 0x7FF 0x123 false) small) (fun t =>
      decide (t.fg = .filter2 0 0x7FF 0x123 false) && t.irqEn && !(fgStep t).irqEn &&
        decide ((fgStep (fgStep t)).xfer = ⟨true, 0, .filter 0x123 0x7FF false⟩)) = true ∧
    afterOp (exec (.registerFilter 0x7FF 0x123 false) { small with inuse := [true, true] }) (fun t =>
      decide (t.ports.code = some .noFreeSlot) && t.irqEn && decide (t.fg = .idle)) = true := by decide

/-- RESERVE_RECEIVE_SLOT takes the next slot; its last step marks it and reports its index (R61). -/
theorem test_reserveReceiveSlot :
    afterOp (exec (.reserveReceiveSlot 0 0 false) registered) (fun t => decide (t.fg = .reserve2 1 0 0 false)) = true ∧
    (fgStep { small with fg := .reserve4 1 }).inuse = [false, true] ∧
    (fgStep { small with fg := .reserve4 1 }).ports.slot = 1 := by decide

/-- XFER_WAIT stages the scan's slot; of a reserved filter, a pending frame and a slot beyond the first free one it takes
none (R2, R76, R89). -/
theorem test_xferWait :
    afterOp (exec (.xferWait 2 (txImage frameT)) small) (fun t =>
      decide (t.xfer = ⟨true, 2, txImage frameT⟩) && decide (t.fg = .xferWait 0)) = true ∧
    exec (.xferWait 0 (.filter 0x7 0x7FF false)) registered = .next registered ∧
    exec (.xferWait 2 (txImage frameE2)) fullTx = .next fullTx ∧
    exec (.xferWait 3 (txImage frameE2)) small = .next small := ⟨by decide, rfl, rfl, rfl⟩

/-- XFER_WAIT of a FILTER image goes on as RESERVE_RECEIVE_SLOT does, so the slot is marked (R75, R76). -/
theorem test_xferWait_filter :
    afterOp (exec (.xferWait 0 (filterImage 0x7FF 0x123 false)) small) (fun t =>
      decide (t.fg = .reserve3 0 0) && decide ((runPrompt 3 t).inuse = [true, false]) &&
        decide ((runPrompt 3 t).moAt 0 = armedSlot 0x123 0x7FF)) = true := by decide

/-- REGISTER_FILTER at its wait, with a ceiling and a number of busy reads so far. -/
def waitingWith (ceiling : Option Nat) (seen : Nat) : State :=
  { small with
    cfg := { instanceS with ceiling := ceiling }
    xfer := ⟨true, 0, .filter 0 0 false⟩
    fg := .filter4 0 seen }

/-- With a ceiling of 3 the third consecutive busy read stalls (F7); without one the foreground holds. -/
theorem test_wait_ceiling :
    (fgStep (waitingWith (some 3) 2)).fg = .stalled ∧ (fgStep (waitingWith (some 3) 1)).fg = .filter4 0 2 ∧
    (fgStep (waitingWith none 0)).fg = .filter4 0 0 := by decide

/-- ENV_XFER_DONE writes the filter (F3) and the frame (T5). -/
theorem test_envXferDone :
    afterOp (exec .envXferDone { small with xfer := ⟨true, 0, filterImage 0x7FF 0x123 false⟩, fg := .filter4 0 0 })
      (fun t => decide (t.moAt 0 = armedSlot 0x123 0x7FF) && !t.xfer.busy) = true ∧
    afterOp (exec .envXferDone { small with xfer := ⟨true, 3, txImage frameT⟩, fg := .trySend3 frameT 0 .direct })
      (fun t => let m := t.moAt 3
        decide ((m.id, m.xtd, m.dir, m.dlc, m.w) = (0x321, false, true, 3, ⟨0x0201, 0x0003, 0, 0⟩)) &&
          m.txrqst && m.eob && !m.armed && decide (t.txSeq = [3])) = true := by decide

/-- ENV_RX stores the frame and raises the slot's indication (X1); halted, it does not occur (V1). -/
theorem test_envRx :
    afterOp (exec (.envRx 0 frameE1) registered) (fun t =>
      decide ((t.moAt 0).id = 0x123) && decide ((t.moAt 0).w = ⟨0xBBAA, 0, 0, 0⟩) && decide ((t.moAt 0).dlc = 2) &&
        t.slotPending 0 && !t.slotPending 1) = true ∧
    exec (.envRx 0 frameE1) { registered with ctrl := ⟨true, true⟩ } =
      .next { registered with ctrl := ⟨true, true⟩ } := by
  refine ⟨by decide, rfl⟩

/-- IRQ_RX copies (X1) or, with the error flag set, skips (X2). -/
theorem test_irqRx :
    afterOp (exec (.irqRx 1) { withSlots MsgObj.none ⟨0x123, 0, false, false, 2, ⟨0xBBAA, 0, 0, 0⟩, false, false, true⟩
        MsgObj.none MsgObj.none with intpnd := ⟨[false, true], false⟩ })
      (fun t => decide (t.shAt 1 = ⟨0x123, false, 2, ⟨0xBBAA, 0, 0, 0⟩⟩) && decide (t.rdy = [false, true]) &&
        decide (t.intpnd.slot = [false, false])) = true ∧
    afterOp (exec (.irqRx 0) { small with stat := ⟨true, false, false⟩, intpnd := ⟨[true, true], false⟩ })
      (fun t => decide (t.rdy = [false, false]) && !t.stat.err && decide (t.intpnd.slot = [false, true])) = true := by
  decide

/-- TRY_RECEIVE: the scan goes on past index 0 (X7), and a length 0 frame still carries its eight bytes (X8). -/
theorem test_tryReceive :
    afterOp (exec .tryReceive { small with rdy := [false, true] }) (fun t => decide (t.fg = .recv1 1)) = true ∧
    (fgStep { small with fg := .recv10 ⟨0x10, false, 0, ⟨0x2211, 0x4433, 0x6655, 0x8877⟩⟩ }).rxOut =
      [⟨0x10, ⟨0x11, 0x22, 0x33, 0x44, 0x55, 0x66, 0x77, 0x88⟩, 0, false⟩] := by decide

/-- PRECHECK_HALT's second step (H2, H4). -/
theorem test_precheckHalt :
    (fgStep { small with ctrl := ⟨true, true⟩, fg := .halt2 false .stop }).ctrl.init = true ∧
    (fgStep { small with ctrl := ⟨true, true⟩, fg := .halt2 true .stop }).ctrl.init = false := by decide

/-- TRY_SEND's choice of slot (T2, T4). -/
theorem test_trySend :
    afterOp (exec (.trySend frameT) (withSlots MsgObj.none MsgObj.none pendingSlot MsgObj.none)) (fun t =>
      decide (t.fg = .trySend2 frameT 3 .direct)) = true ∧
    afterOp (exec (.trySend frameT) fullTx) (fun t =>
      decide (t.ports.code = some .noFreeSlot) && decide (t.mo = fullTx.mo)) = true := by decide

/-- ENQUEUE: the tail wraps (Q2's shape on a ring of two), and a full queue rejects (Q3). -/
theorem test_enqueue :
    afterOp (exec (.enqueue frameT) { small with q := ⟨[zeroFrame, zeroFrame], 1, 1⟩ }) (fun t =>
      decide (t.q = ⟨[frameT, zeroFrame], 1, 2⟩) && decide (t.ports.code = some .ok)) = true ∧
    afterOp (exec (.enqueue frameT) { small with q := ⟨[zeroFrame, zeroFrame], 1, 2⟩ }) (fun t =>
      decide (t.q = ⟨[zeroFrame, zeroFrame], 1, 2⟩) && decide (t.ports.code = some .queueFull)) = true := by decide

/-- DRAIN_ONE: Empty runs no PRECHECK_HALT (Q6c); the head wraps only on success (Q4, Q5). -/
theorem test_drainOne :
    afterOp (exec .drainOne { small with ctrl := ⟨true, true⟩, stat := ⟨false, false, true⟩ }) (fun t =>
      decide (t.ports.code = some .empty) && t.ctrl.init) = true ∧
    (fgStep { small with q := ⟨[zeroFrame, zeroFrame], 1, 2⟩, fg := .drain4 .ok false }).q = ⟨[zeroFrame, zeroFrame], 0, 1⟩ ∧
    (fgStep { small with q := ⟨[zeroFrame, zeroFrame], 1, 2⟩, fg := .drain4 .noFreeSlot false }).q =
      ⟨[zeroFrame, zeroFrame], 1, 2⟩ := by decide

/-- SEND begins with the halt check, and falls back to the queue only after NoFreeSlot (Q9, Q10). -/
theorem test_send :
    afterOp (exec (.send frameT) small) (fun t => decide (t.fg = .halt2 false (.trySend frameT .send))) = true ∧
    (fgStep { fullTx with fg := .send3 frameT .noFreeSlot }).fg = .send4 frameT ∧
    (fgStep { fullTx with fg := .send4 frameT }).q.count = 1 := by decide

/-- POLL returns Ok whatever DRAIN_ONE returned (R95). -/
theorem test_poll :
    afterOp (exec .poll small) (fun t => decide (t.fg = .poll2)) = true ∧
    (fgStep { fullTx with q := ⟨[frameT, frameT], 0, 1⟩, fg := .drain4 .noFreeSlot true }).fg = .poll2 ∧
    (fgStep { small with fg := .poll2 }).ports.code = some .ok := by decide

/-- `small` with a pending status indication. -/
def pendingStatus (stat : Stat) (cnt : Counters) : State :=
  { small with stat := stat, cnt := cnt, intpnd := ⟨[false, false], true⟩ }

/-- IRQ_STATUS (M4, M5). -/
theorem test_irqStatus :
    afterOp (exec .irqStatus ((pendingStatus ⟨false, true, true⟩ ⟨4, 7⟩).setHalt true))
      (fun t => decide (t.cnt = ⟨5, 7⟩) && !t.ctrl.init && !t.intpnd.status) = true ∧
    afterOp (exec .irqStatus ((pendingStatus ⟨false, true, false⟩ ⟨4, 7⟩).setHalt true))
      (fun t => decide (t.cnt = ⟨4, 8⟩) && t.ctrl.init && !t.intpnd.status) = true := by decide

/-- A counter at its limit (M6). -/
theorem test_irqStatus_overflow :
    afterOp (exec .irqStatus ((pendingStatus ⟨false, false, true⟩ ⟨0xFFFFFFFF, 7⟩).setHalt true))
      (fun t => decide (t.cnt = ⟨0xFFFFFFFF, 7⟩) && t.ctrl.init && t.intpnd.status && t.faults.counterOverflow) = true := by
  decide

/-- RD_COUNTERS is no snapshot (M8). -/
theorem test_rdCounters :
    afterOp (exec .rdCounters { small with cnt := ⟨5, 2⟩ }) (fun t =>
      decide (t.ports.boff = 5) && decide ((fgStep { t with cnt := ⟨5, 3⟩ }).ports.ewarn = 3)) = true := by decide

/-- ENV_TX_DONE (V5). -/
theorem test_envTxDone :
    afterOp (exec (.envTxDone 3) fullTx) (fun t =>
      decide (t.busTx = [frameT]) && !t.txPending 3 && t.txPending 2 && decide (t.intpnd = small.intpnd)) = true := by
  decide

/-- ENV_BUSOFF with one lost slot (V2); ENV_SILENT_HALT raises nothing (program 4). -/
theorem test_busoff :
    afterOp (exec (.envBusoff [2] false) fullTx) (fun t =>
      decide (t.stat = ⟨false, false, true⟩) && t.ctrl.init && !t.txPending 2 && t.txPending 3 &&
        decide (t.txLost = [frameT]) && t.intpnd.status) = true ∧
    afterOp (exec (.envSilentHalt [] false) small) (fun t => t.stat.boff && t.ctrl.init && !t.intpnd.status) = true := by
  decide

/-- Error-warning on and off, and recovery, which needs the halt bit clear (V3, program 4). -/
theorem test_warning_and_recovery :
    afterOp (exec .envEwarnOn small) (fun t => t.stat.ewarn && t.intpnd.status) = true ∧
    afterOp (exec .envEwarnOff { small with stat := ⟨false, true, false⟩, ctrl := ⟨true, true⟩ }) (fun t => !t.stat.ewarn) = true ∧
    afterOp (exec .envRecovered { small with stat := ⟨false, true, true⟩ }) (fun t => !t.stat.boff && !t.stat.ewarn) = true ∧
    afterOp (exec .envRecovered { small with stat := ⟨false, true, true⟩, ctrl := ⟨true, true⟩ }) (fun t => t.stat.boff) = true := by
  decide

theorem test_envErrSet :
    afterOp (exec (.envErrSet false) small) (fun t => t.stat.err && !t.intpnd.status) = true ∧
    afterOp (exec (.envErrSet true) small) (fun t => t.stat.err && t.intpnd.status) = true := by decide

/-- RESET while the foreground holds in a handshake (Z2). -/
theorem test_reset :
    afterOp (exec .reset { small with irqEn := false, xfer := ⟨true, 0, .filter 0 0 false⟩, fg := .filter4 0 0 }) (fun t =>
      !t.xfer.busy && t.irqEn && decide (t.fg = .idle) && !t.inited && t.ctrl.init && !t.ctrl.ie) = true := by decide

/-! ## Inputs -/

/-- On the host command port a code of another class is refused (E10). -/
theorem test_step_illegal_code :
    afterOp (step { small with inputs := [.command .foreground 0x41 OperandPorts.zero] }) (fun t =>
      decide (t.refused = some .illegalOp) && t.inited) = true ∧
    afterOp (step { small with inputs := [.label .reset] }) (fun t => !t.inited) = true ∧
    afterOp (step (small.withFetchWord 8 0x41)) (fun t => !t.inited) = true := by decide

/-- A host operation issued from the interrupt context is refused (R134). -/
theorem test_step_from_interrupt_context :
    afterOp (step { small with inputs := [.command .interrupt 0x04 OperandPorts.zero] }) (fun t =>
      decide (t.refused = some .sendFromIrq)) = true := by decide

/-- A command's operands are those on its ports (R57), words of any width among them (R7). -/
theorem test_step_samples_ports :
    afterOp (step { small with
        inited := false
        inputs := [.command .foreground 0x01 { OperandPorts.zero with baud := ⟨2 ^ 40, 7⟩ }] }) (fun t =>
      decide (t.fg = .init2 ⟨2 ^ 40, 7⟩)) = true := by decide

/-- A block at rest that takes no more operations has ended its run at once (R142). -/
theorem test_run_ends_at_rest :
    IsRun (fun _ => .advance) (fun _ => small) ∧ EndsAt false (fun _ => .advance) (fun _ => small) 0 :=
  ⟨fun _ => rfl, fun _ _ => rfl, by decide, fun k hk => absurd hk (Nat.not_lt_zero k)⟩

/-- With a slot pending it has ended only for a claim that allows it. -/
theorem test_at_rest_pending : fullTx.atRest false = false ∧ fullTx.atRest true = true := by decide

/-! ## Witnesses: states and operands that meet the hypotheses of the statements -/

theorem small_free : small.free := ⟨rfl, rfl⟩

theorem small_ready : small.ready := ⟨small_free, rfl⟩

/-- The slots of a four-slot state, one by one. -/
theorem forall_slot {P : Nat → Prop} (h0 : P 0) (h1 : P 1) (h2 : P 2) (h3 : P 3) (hn : ∀ n, P (n + 4)) : ∀ i, P i
  | 0 => h0
  | 1 => h1
  | 2 => h2
  | 3 => h3
  | n + 4 => hn n

/-- The invariant holds of a state between transfers, with a registered filter, a pending frame and a queued one. -/
def busy : State :=
  { withSlots (armedSlot 0x120 0x7F0) MsgObj.none pendingSlot MsgObj.none with
    inuse := [true, false], txSeq := [2], q := ⟨[frameT, zeroFrame], 0, 1⟩, intpnd := ⟨[true, false], false⟩ }

theorem witness_BlockInv : BlockInv busy where
  params := by decide
  storage := by decide
  queue := by
    refine ⟨by decide, by decide, fun k hk => ?_⟩
    have hk0 : k = 0 := Nat.lt_one_iff.1 hk
    subst hk0
    decide
  counters := by
    refine ⟨?_, ?_⟩ <;> exact Nat.zero_le _
  slots :=
    ⟨forall_slot (by decide) (by decide) (by decide) (by decide) fun _ h => Bool.noConfusion h,
      forall_slot (by decide) (by decide) (by decide) (by decide) fun _ h => Bool.noConfusion h,
      forall_slot (by decide) (by decide) (by decide) (by decide) fun _ h => Bool.noConfusion h⟩
  txSeq := by
    refine ⟨by decide, forall_slot (by decide) (by decide) (by decide) (by decide) fun n => ?_⟩
    constructor
    · intro h
      exact absurd (List.mem_singleton.1 h) (by omega)
    · exact fun h => Bool.noConfusion h
  port := fun h => Bool.noConfusion h
  position := trivial
  gate := ⟨fun h => Bool.noConfusion h, fun h => Bool.noConfusion h⟩
  halt := ⟨fun h => Bool.noConfusion h, fun _ => rfl, fun h => Fg.noConfusion h, fun h => Bool.noConfusion h,
    fun _ h => Bool.noConfusion h⟩

/-- The same block inside REGISTER_FILTER's masked interval, while its transfer is pending. -/
def masked : State :=
  { busy with irqEn := false, xfer := ⟨true, 1, .filter 0x123 0x7FF false⟩, fg := .filter4 1 0 }

theorem witness_MaskedIntervalExcludesInterrupts : BlockInv masked ∧ masked.masked = true :=
  ⟨{ params := witness_BlockInv.params
     storage := witness_BlockInv.storage
     queue := witness_BlockInv.queue
     counters := witness_BlockInv.counters
     slots := witness_BlockInv.slots
     txSeq := witness_BlockInv.txSeq
     port := fun _ => ⟨.inl rfl, by decide, rfl⟩
     position := ⟨by decide, rfl, rfl⟩
     gate := ⟨fun _ => rfl, fun _ => .inl rfl⟩
     halt := ⟨fun h => Bool.noConfusion h, fun _ => rfl, fun h => Fg.noConfusion h, fun h => Bool.noConfusion h,
       fun _ h => Bool.noConfusion h⟩ }, rfl⟩

theorem witness_StepKeepsTheInvariant : BlockInv busy ∧ ∃ t, step busy = .next t := ⟨witness_BlockInv, _, rfl⟩

theorem witness_StepKeepsLengthsInRange : BlockInv busy ∧ LengthInv busy ∧ ∃ t, step busy = .next t := by
  refine ⟨witness_BlockInv, ⟨?_, ?_, trivial, ?_⟩, _, rfl⟩
  · exact forall_slot (fun _ => Nat.zero_le 8) (fun h => Bool.noConfusion h) (fun h => Bool.noConfusion h)
      (fun h => Bool.noConfusion h) fun _ h => Bool.noConfusion h
  · exact forall_slot (fun h => Bool.noConfusion h) (fun h => Bool.noConfusion h) (fun h => Bool.noConfusion h)
      (fun h => Bool.noConfusion h) fun _ h => Bool.noConfusion h
  · exact fun _ h => absurd h List.not_mem_nil

theorem witness_OrderInv : OrderInv busy where
  prefixed := forall_slot (fun _ j hj => absurd hj (Nat.not_lt_zero j)) (fun h => Bool.noConfusion h)
    (fun h => Bool.noConfusion h) (fun h => Bool.noConfusion h) fun _ h => Bool.noConfusion h
  reserving := trivial
  armed := forall_slot (fun _ => .inl rfl) (fun h => Bool.noConfusion h) (fun h => Bool.noConfusion h)
    (fun h => Bool.noConfusion h) fun _ h => Bool.noConfusion h
  transfer := fun h => Bool.noConfusion h

theorem witness_StepKeepsSlotsInOrder : BlockInv busy ∧ OrderInv busy ∧ ∃ t, step busy = .next t :=
  ⟨witness_BlockInv, witness_OrderInv, _, rfl⟩

theorem witness_ResetMeetsTheInvariant : instanceS.ok = true ∧ Params.document.ok = true := by decide

theorem witness_DecodeInvertsEncode :
    (Instr.xferWait 3 (.txframe 0x7FF false 8 ⟨1, 2, 3, 0xFFFF⟩)).wellFormed instanceS = true ∧
    (Instr.envBusoff [2, 3] true).wellFormed instanceS = true ∧
    (Instr.reserveReceiveSlot 0xFFFFFFFF 0x1FFFFFFF true).wellFormed instanceS = true := by decide

theorem witness_CommandPortRefusesOtherCodes :
    ({ small with inputs := [.command .foreground 0x07 OperandPorts.zero] } : State).inputs =
      .command .foreground 0x07 OperandPorts.zero :: [] ∧
    ¬(1 ≤ (0x07#8).toNat ∧ (0x07#8).toNat ≤ 6) ∧ ¬(1 ≤ (0x00#8).toNat ∧ (0x00#8).toNat ≤ 6) := by decide

theorem witness_StepRunsTheDecodedOperation :
    (({ small with inputs := [inputOf [0x33, 3, 0]] } : State).inputs = inputOf [0x33, 3, 0] :: [] ∧
      decode [0x33, 3, 0] = .ok (.envTxDone 3, [])) ∧
    decodeTableWord 8 0x04 = some .poll ∧
    ({ small with inputs := [.command .interrupt 0x04 OperandPorts.zero] } : State).inputs =
      .command .interrupt 0x04 OperandPorts.zero :: [] ∧
    ({ small with inputs := [.label .reset] } : State).inputs = .label .reset :: [] ∧
    ({ small with inputs := [.advance] } : State).inputs = .advance :: [] ∧ small.inputs = [] := by decide

theorem witness_HostOperationsAreRefusedAsListed :
    (Instr.poll.isHost = true ∧ ({ small with issuer := .interrupt } : State).issuer = .interrupt) ∧
    (({ small with fg := .poll2 } : State).issuer = .foreground ∧ ({ small with fg := .poll2 } : State).fg ≠ .idle) ∧
    (small.free ∧ small.inited = true) ∧
    (({ small with inited := false } : State).free ∧ (∀ b, Instr.poll ≠ .init b) ∧ Instr.poll ≠ .rdCounters) ∧
    (small.ready ∧ 8 < (9#8).toNat) ∧
    (small.ready ∧ (8#8).toNat ≤ 8 ∧ 2 ^ (if false then 29 else 11) ≤ (0x800#32).toNat) ∧
    (small.ready ∧ 2 ^ (if true then 29 else 11) ≤ (0x20000000#32).toNat) :=
  ⟨by decide, by decide, ⟨small_free, rfl⟩, ⟨⟨rfl, rfl⟩, fun _ h => Instr.noConfusion h, by decide⟩,
    ⟨small_ready, by decide⟩, ⟨small_ready, by decide⟩, ⟨small_ready, by decide⟩⟩

theorem witness_InitWritesInOrderAndCompletes :
    (State.reset.free ∧ State.reset.inited = false ∧ State.reset.ctrl.ie = false) ∧ small.free ∧ small.inited = true :=
  ⟨⟨⟨rfl, rfl⟩, rfl, rfl⟩, small_free, rfl⟩

theorem small_leastFreeRx : small.leastFreeRx 0 := ⟨by decide, rfl, fun j hj => absurd hj (Nat.not_lt_zero j)⟩

theorem registered_leastFreeRx : registered.leastFreeRx 1 := ⟨by decide, rfl, by decide⟩

theorem witness_RegisterFilterProgramsLeastFreeSlot :
    registered.ready ∧ registered.xfer.busy = false ∧ (0x7FF#32).toNat < 2 ^ (if false then 29 else 11) ∧
      registered.leastFreeRx 1 := ⟨⟨⟨rfl, rfl⟩, rfl⟩, rfl, by decide, registered_leastFreeRx⟩

theorem witness_ReserveReceiveSlotReturnsLeastFreeSlot :
    small.free ∧ small.xfer.busy = false ∧ (0x1FFFFFFF#32).toNat < 2 ^ (if true then 29 else 11) ∧ small.leastFreeRx 0 :=
  ⟨small_free, rfl, by decide, small_leastFreeRx⟩

theorem witness_ReservationFailsWhenAllInUse :
    (0#32).toNat < 2 ^ (if false then 29 else 11) ∧
      (∀ j, j < instanceS.NRX → ({ small with inuse := [true, true] } : State).inuseAt j = true) ∧
      ({ small with inuse := [true, true] } : State).ready := ⟨by decide, by decide, ⟨rfl, rfl⟩, rfl⟩

theorem small_leastFreeTx : small.leastFreeTx 2 :=
  ⟨by decide, by decide, rfl, fun j h1 h2 => absurd (Nat.lt_of_le_of_lt h1 h2) (Nat.lt_irrefl 2)⟩

/-- Both kinds of image at the scan's slot; and a reserved slot, a pending one and an image no checked operand gives. -/
theorem witness_XferWaitStagesAndEnds :
    (small.free ∧ small.xfer.busy = false ∧ 2 < small.cfg.N ∧ imageOk (txImage frameT) = true ∧
      (txImage frameT).kind = .txframe ∧ small.leastFreeTx 2 ∧ small.cfg.ceiling = none) ∧
    (0 < small.cfg.N ∧ imageOk (filterImage 0x7FF 0x123 false) = true ∧ (filterImage 0x7FF 0x123 false).kind = .filter ∧
      small.leastFreeRx 0) ∧
    (¬ registered.leastFreeRx 0 ∧ ¬ fullTx.leastFreeTx 2 ∧ imageOk (.filter 0x800 0 false) = false) :=
  ⟨⟨small_free, rfl, by decide, by decide, rfl, small_leastFreeTx, rfl⟩, ⟨by decide, by decide, rfl, small_leastFreeRx⟩,
    fun h => Bool.noConfusion h.2.1, fun h => Bool.noConfusion h.2.2.1, by decide⟩

/-- A wait with a ceiling of 3, at any of the four positions. -/
def waitsAt (p : Fg) : State := { masked with cfg := { instanceS with ceiling := some 3 }, fg := p }

theorem witness_WaitHoldsOrStalls :
    (masked.waiting = true ∧ masked.xfer.busy = true ∧ masked.cfg.ceiling = none) ∧
    (∀ p ∈ [Fg.xferWait 2, .filter4 1 2, .reserve3 1 2, .trySend3 frameT 2 .send],
      (waitsAt p).waiting = true ∧ (waitsAt p).xfer.busy = true ∧ (waitsAt p).cfg.ceiling = some 3 ∧ 3 ≤ 2 + 1) ∧
    (∀ p ∈ [Fg.xferWait 1, .filter4 1 1, .reserve3 1 1, .trySend3 frameT 1 .send],
      (waitsAt p).waiting = true ∧ (waitsAt p).xfer.busy = true ∧ (waitsAt p).cfg.ceiling = some 3 ∧ 1 + 1 < 3) := by decide

theorem witness_IrqRxCopiesOrSkips :
    (0 < busy.cfg.NRX ∧ busy.irqRxEnabled 0 = true ∧ busy.stat.err = false) ∧
    ({ busy with stat := ⟨true, false, false⟩ } : State).irqRxEnabled 0 = true := by decide

theorem witness_IrqGatesAreAsStated_lowest_first :
    ({ busy with cfg := { instanceS with irqOrder := .statusFirstAscending }, intpnd := ⟨[false, true], false⟩ } :
      State).irqRxEnabled 1 = true ∧
    ({ busy with cfg := { instanceS with irqOrder := .statusFirstAscending }, intpnd := ⟨[true, true], false⟩ } :
      State).irqRxEnabled 1 = false := by decide

/-- IRQ steps that are not enabled: nothing is pending; the gate is closed. -/
theorem witness_IrqGatesAreAsStated_disabled :
    1 < small.cfg.NRX ∧ small.irqRxEnabled 1 = false ∧ small.irqStatusEnabled = false ∧
      ({ busy with irqEn := false } : State).irqRxEnabled 0 = false := by decide

theorem witness_LatestFrameReachesShadow :
    Memory.wf registered ∧ registered.cfg.NRX ≤ registered.cfg.N ∧ registered.rxEnabled 0 frameE1 = true ∧
      ∃ t u, exec (.envRx 0 frameE1) registered = .next t ∧ t.irqRxEnabled 0 = true ∧ t.stat.err = false ∧
        exec (.irqRx 0) t = .next u :=
  ⟨by decide, by decide, by decide, _, _, rfl, rfl, rfl, rfl⟩

theorem witness_TryReceiveReturnsLeastReady :
    ({ small with rdy := [false, true] } : State).ready ∧ 1 < small.cfg.NRX ∧
      ({ small with rdy := [false, true] } : State).rdyAt 1 = true ∧
      ∀ j, j < 1 → ({ small with rdy := [false, true] } : State).rdyAt j = false :=
  ⟨⟨⟨rfl, rfl⟩, rfl⟩, by decide, rfl, by decide⟩

theorem witness_TryReceiveFindsNothing : small.ready ∧ ∀ j, j < small.cfg.NRX → small.rdyAt j = false :=
  ⟨small_ready, by decide⟩

theorem witness_CopyDuringReadTearsFrame :
    ∃ s u : State, Memory.wf s ∧ s.fg = readPosition 0 ⟨0x111, false, 2, ⟨0x1111, 0, 0, 0⟩⟩ 4 ∧ 0 < s.cfg.NRX ∧
      s.irqRxEnabled 0 = true ∧ s.stat.err = false ∧ exec (.irqRx 0) s = .next u :=
  ⟨{ busy with rdy := [true, false], fg := .recvRead .w1 0 ⟨0x111, false, 2, ⟨0x1111, 0, 0, 0⟩⟩ }, _,
    by decide, rfl, by decide, rfl, rfl, rfl⟩

/-- The start of a TRY_RECEIVE that a copy can hit, and the entry it reads at the two ends and in the middle (R149). -/
theorem witness_CopyDuringReadTearsFrame_start :
    (Memory.wf ({ busy with rdy := [true, false] } : State) ∧ ({ busy with rdy := [true, false] } : State).ready ∧
      ({ busy with rdy := [true, false] } : State).rdyAt 0 = true ∧
      ({ busy with rdy := [true, false] } : State).irqRxEnabled 0 = true ∧ busy.stat.err = false) ∧
    tornShadow 0 ⟨1, true, 2, ⟨3, 4, 5, 6⟩⟩ ⟨7, false, 8, ⟨9, 10, 11, 12⟩⟩ = ⟨7, false, 8, ⟨9, 10, 11, 12⟩⟩ ∧
    tornShadow 3 ⟨1, true, 2, ⟨3, 4, 5, 6⟩⟩ ⟨7, false, 8, ⟨9, 10, 11, 12⟩⟩ = ⟨1, true, 2, ⟨9, 10, 11, 12⟩⟩ ∧
    tornShadow 7 ⟨1, true, 2, ⟨3, 4, 5, 6⟩⟩ ⟨7, false, 8, ⟨9, 10, 11, 12⟩⟩ = ⟨1, true, 2, ⟨3, 4, 5, 6⟩⟩ :=
  ⟨⟨by decide, ⟨⟨rfl, rfl⟩, rfl⟩, rfl, rfl, rfl⟩, rfl, rfl, rfl⟩

theorem witness_PrecheckHaltClearsOnBusOff :
    small.free ∧ ({ small with fg := .halt2 true .stop } : State).fg = .halt2 true .stop := ⟨small_free, rfl⟩

theorem witness_TrySendProgramsLeastFreeSlot :
    busy.free ∧ busy.xfer.busy = false ∧ frameOk frameE2 = true ∧ busy.leastFreeTx 3 :=
  ⟨⟨rfl, rfl⟩, rfl, by decide, by decide, by decide, rfl, by decide⟩

theorem fullTx_allTxPending : fullTx.allTxPending := by
  intro j h1 h2
  have h2' : j < 4 := h2
  have h1' : 2 ≤ j := h1
  obtain rfl | rfl : j = 2 ∨ j = 3 := by omega
  all_goals decide

theorem witness_TrySendFailsWhenAllPending : fullTx.free ∧ frameOk frameT = true ∧ fullTx.allTxPending :=
  ⟨⟨rfl, rfl⟩, by decide, fullTx_allTxPending⟩

theorem witness_EnqueueAppendsOrRejects :
    small.free ∧ frameOk frameT = true ∧ small.q.count ≠ small.cfg.QCAP ∧
      ({ small with q := ⟨[frameT, frameT], 1, 2⟩ } : State).q.count = small.cfg.QCAP := ⟨small_free, by decide⟩

/-- DRAIN_ONE, SEND and POLL with a slot free; `busy` is ready and has one frame queued. -/
theorem witness_DrainOneMovesOldestFrame :
    busy.ready ∧ busy.xfer.busy = false ∧ 0 < busy.q.count ∧ busy.leastFreeTx 3 :=
  ⟨⟨⟨rfl, rfl⟩, rfl⟩, rfl, by decide, by decide, by decide, rfl, by decide⟩

theorem witness_SendProgramsFreeSlot :
    busy.ready ∧ busy.xfer.busy = false ∧ frameOk frameT = true ∧ busy.leastFreeTx 3 :=
  ⟨witness_DrainOneMovesOldestFrame.1, rfl, by decide, witness_DrainOneMovesOldestFrame.2.2.2⟩

theorem witness_PollMovesOneFrame :
    busy.ready ∧ busy.xfer.busy = false ∧ 0 < busy.q.count ∧ busy.leastFreeTx 3 := witness_DrainOneMovesOldestFrame

/-- DRAIN_ONE and POLL on an empty queue, and with the transmit region all pending. -/
theorem witness_DrainOneKeepsQueueOtherwise :
    (small.free ∧ small.q.count = 0) ∧
    (({ fullTx with q := ⟨[frameT, frameT], 1, 2⟩ } : State).free ∧
      0 < ({ fullTx with q := ⟨[frameT, frameT], 1, 2⟩ } : State).q.count ∧
      ({ fullTx with q := ⟨[frameT, frameT], 1, 2⟩ } : State).allTxPending) ∧
    (∀ poll, ({ busy with fg := .drain4 .noFreeSlot true } : State).fg ≠ .drain4 .ok poll) ∧
    ∃ t, exec (.enqueue frameT) small = .next t :=
  ⟨⟨small_free, rfl⟩, ⟨⟨rfl, rfl⟩, by decide, fullTx_allTxPending⟩, by decide, _, rfl⟩

theorem witness_PollIsIdleOtherwise :
    (small.ready ∧ small.q.count = 0) ∧
    (({ fullTx with q := ⟨[frameT, frameT], 1, 2⟩ } : State).ready ∧
      0 < ({ fullTx with q := ⟨[frameT, frameT], 1, 2⟩ } : State).q.count ∧
      ({ fullTx with q := ⟨[frameT, frameT], 1, 2⟩ } : State).allTxPending) :=
  ⟨⟨small_ready, rfl⟩, ⟨⟨rfl, rfl⟩, rfl⟩, by decide, fullTx_allTxPending⟩

theorem witness_SendFallsBackToQueue :
    fullTx.ready ∧ frameOk frameT = true ∧ fullTx.allTxPending ∧ fullTx.q.count ≠ fullTx.cfg.QCAP ∧
      ({ fullTx with q := ⟨[frameT, frameT], 1, 2⟩ } : State).q.count = fullTx.cfg.QCAP :=
  ⟨⟨⟨rfl, rfl⟩, rfl⟩, by decide, fullTx_allTxPending, by decide, rfl⟩

/-- A ring of two with its head at the last entry: the appended frame wraps, and the dropped head wraps. -/
theorem witness_QueueIsFirstInFirstOut :
    ∃ s t : State, s.q.ring.length = s.cfg.QCAP ∧ s.q.head < s.cfg.QCAP ∧ s.q.count ≤ s.cfg.QCAP ∧ s.free ∧
      frameOk frameT = true ∧ s.q.count < s.cfg.QCAP ∧ exec (.enqueue frameT) s = .next t ∧
      ({ s with fg := .drain4 .ok false } : State).fg = .drain4 .ok false ∧ 0 < s.q.count :=
  ⟨{ small with q := ⟨[zeroFrame, frameT], 1, 1⟩ }, _, rfl, by decide, by decide, ⟨rfl, rfl⟩, by decide, by decide,
    rfl, rfl, by decide⟩

theorem witness_IrqStatusCountsAndClearsHalt :
    (pendingStatus ⟨false, true, true⟩ ⟨2 ^ 32 - 2, 0⟩).irqStatusEnabled = true ∧ 2 ^ 32 - 2 < 2 ^ instanceS.CNTW - 1 ∧
    (pendingStatus ⟨false, true, false⟩ ⟨0, 7⟩).irqStatusEnabled = true ∧
    (pendingStatus ⟨true, false, false⟩ ⟨0, 7⟩).irqStatusEnabled = true := by decide

theorem witness_IrqStatusCountsAndClearsHalt_overflow :
    (pendingStatus ⟨false, false, true⟩ ⟨2 ^ 32 - 1, 0⟩).irqStatusEnabled = true ∧ 2 ^ instanceS.CNTW - 1 ≤ 2 ^ 32 - 1 ∧
    (pendingStatus ⟨false, true, false⟩ ⟨0, 2 ^ 32 - 1⟩).irqStatusEnabled = true := by decide

theorem witness_BusOffIsCountedOnceAndHaltCleared :
    ∃ t, fullTx.badSlot [2] = none ∧ fullTx.busoffEnabled [2] = true ∧ fullTx.ctrl.ie = true ∧ fullTx.irqEn = true ∧
      fullTx.refused = none ∧ fullTx.faults.counterOverflow = false ∧ fullTx.cnt.boff < 2 ^ fullTx.cfg.CNTW - 1 ∧
      exec (.envBusoff [2] true) fullTx = .next t := ⟨_, by decide, by decide, rfl, rfl, rfl, rfl, by decide, rfl⟩

theorem witness_RdCountersReadsBoth : small.free ∧ ({ small with inited := false } : State).free :=
  ⟨small_free, rfl, rfl⟩

theorem witness_CountersOnlyGrowInIrqStatus :
    (∃ t, exec .poll small = .next t) ∧ Instr.poll ≠ .reset ∧ Instr.poll ≠ .irqStatus ∧
      (∃ t, exec .reset small = .next t) ∧ ∃ t, exec .irqStatus (pendingStatus ⟨false, false, true⟩ ⟨4, 7⟩) = .next t :=
  ⟨⟨_, rfl⟩, by decide, by decide, ⟨_, rfl⟩, _, rfl⟩

theorem witness_XferDoneLandsTheImage :
    (masked.xfer.busy = true ∧ masked.xfer.image = .filter 0x123 0x7FF false) ∧
    (({ small with xfer := ⟨true, 3, txImage frameT⟩ } : State).xfer.busy = true ∧
      txImage frameT = .txframe 0x321 false 3 ⟨0x0201, 0x0003, 0, 0⟩) := by decide

theorem witness_EnvRxStoresTheFrame :
    0 < registered.cfg.NRX ∧ registered.cfg.NRX ≤ registered.cfg.N ∧ registered.ctrl.init = false ∧
      registered.stat.boff = false ∧ frameOk frameE1 = true ∧ accepts (registered.moAt 0) frameE1 = true ∧
      (registered.cfg.rxMatch = .lowestIndex → ∀ j, j < 0 → accepts (registered.moAt j) frameE1 = false) :=
  ⟨by decide, by decide, rfl, rfl, by decide, by decide, fun _ j hj => absurd hj (Nat.not_lt_zero j)⟩

/-- Receptions that are not enabled: a frame the slot does not accept, and one that a lower slot accepts too. -/
theorem witness_EnvRxStoresTheFrame_disabled :
    (0 < registered.cfg.N ∧ accepts (registered.moAt 0) { frameE1 with id := 0x133 } = false) ∧
    (accepts (armedSlot 0x123 0x7FF) frameE1 = true ∧ accepts (armedSlot 0x120 0x7F0) frameE1 = true ∧
      State.rxEnabled { withSlots (armedSlot 0x120 0x7F0) (armedSlot 0x123 0x7FF) MsgObj.none MsgObj.none with
        cfg := { instanceS with rxMatch := .lowestIndex } } 1 frameE1 = false) := by decide

theorem witness_AcceptanceSurvivesReception : accepts (armedSlot 0x120 0x7F0) frameE1 = true := by decide

theorem witness_EnvTxDoneSendsTheFrame :
    fullTx.cfg.NRX ≤ 2 ∧ 2 < fullTx.cfg.N ∧ fullTx.ctrl.init = false ∧ fullTx.stat.boff = false ∧
      (fullTx.moAt 2).txrqst = true ∧ (fullTx.moAt 2).dir = true ∧ fullTx.txSeq.head? = some 2 := by decide

/-- Transmissions that are not enabled: a slot that is not pending, and one that each order holds back (R107, R152). -/
theorem witness_EnvTxDoneSendsTheFrame_disabled :
    3 < fullTx.cfg.N ∧ (small.moAt 3).txrqst = false ∧ fullTx.txPending 2 = true ∧ fullTx.txSeq.head? ≠ some 3 ∧
    State.txEnabled { fullTx with cfg := { instanceS with txOrder := .lowestIndex } } 3 = false ∧
    State.txEnabled { fullTx with cfg := { instanceS with txOrder := .programmingOrder } } 3 = false := by decide

theorem witness_ErrorWarningRisesAndFalls :
    (small.ctrl.init = false ∧ small.stat.ewarn = false ∧ small.stat.boff = false) ∧
    (({ small with stat := ⟨false, true, false⟩ } : State).stat.ewarn = true ∧
      ({ small with stat := ⟨false, true, false⟩ } : State).stat.boff = false) := by decide

theorem witness_BusOffHaltsAndAbandons :
    fullTx.ctrl.init = false ∧ fullTx.stat.boff = false ∧
      ∀ i ∈ [2, 3], fullTx.cfg.NRX ≤ i ∧ i < fullTx.cfg.N ∧ fullTx.txPending i = true := by decide

/-- Bus-off events that are not enabled: bus-off already, with the halt bit clear, and a set with a free slot (R109). -/
theorem witness_BusOffHaltsAndAbandons_disabled :
    ({ fullTx with stat := ⟨false, false, true⟩ } : State).ctrl.init = false ∧ (∀ i ∈ [2, 3], i < fullTx.cfg.N) ∧
      (withSlots MsgObj.none MsgObj.none pendingSlot MsgObj.none).txPending 3 = false := by decide

theorem witness_RecoveryNeedsHaltClear :
    (({ small with stat := ⟨false, false, true⟩ } : State).stat.boff = true ∧ small.ctrl.init = false) ∧
    ({ small with stat := ⟨false, false, true⟩, ctrl := ⟨true, true⟩ } : State).ctrl.init = true ∧
      ∃ t, exec .envRecovered { small with stat := ⟨false, false, true⟩, ctrl := ⟨true, true⟩ } = .next t :=
  ⟨⟨rfl, rfl⟩, rfl, _, rfl⟩

/-- Each of the three steps that clear the halt bit. -/
theorem witness_RecoveryNeedsHaltClear_clears :
    (fgStep { small with ctrl := ⟨true, false⟩, fg := .init4 }).ctrl.init = false ∧
    (fgStep { small with ctrl := ⟨true, true⟩, fg := .halt2 true .stop }).ctrl.init = false ∧
    ∃ t, exec .irqStatus ((pendingStatus ⟨false, false, true⟩ ⟨4, 7⟩).setHalt true) = .next t ∧ t.ctrl.init = false :=
  ⟨rfl, rfl, _, rfl, rfl⟩

theorem witness_ErrorFlagIsSetByController :
    small.ctrl.init = false ∧ ∃ t, exec (.irqRx 0) { busy with stat := ⟨true, false, false⟩ } = .next t ∧
      t.stat.err = false := ⟨rfl, _, rfl, rfl⟩

theorem witness_HaltedControllerIsSilent :
    ({ masked with ctrl := ⟨true, true⟩, stat := ⟨false, true, false⟩ } : State).ctrl.init = true ∧
    ({ masked with ctrl := ⟨true, true⟩, stat := ⟨false, true, false⟩ } : State).xfer.busy = true ∧
    ({ masked with ctrl := ⟨true, true⟩, stat := ⟨false, true, false⟩ } : State).stat.ewarn = true ∧
    (∀ i ∈ [2, 3], i < small.cfg.N) ∧
    ({ small with stat := ⟨false, false, true⟩ } : State).stat.boff = true ∧ 3 < small.cfg.N ∧
    (small.xfer.busy = false ∧ small.stat.ewarn = false ∧ small.stat.boff = false) := by decide

theorem witness_NoIndicationWithoutEnable :
    opClassOf (Instr.envErrSet true).opcode = 3 ∧ ({ small with ctrl := ⟨false, false⟩ } : State).ctrl.ie = false ∧
      ∃ t, exec (.envErrSet true) { small with ctrl := ⟨false, false⟩ } = .next t := ⟨by decide, rfl, _, rfl⟩

theorem witness_LabelsOutsideTheSlotSpaceStop :
    small.cfg.NRX ≤ 2 ∧ small.cfg.N ≤ 4 ∧ exec (.irqRx 2) small = .fault (.noSuchSlot 2) ∧
      (∃ k ∈ [3, 4], small.cfg.N ≤ k) ∧ exec (.envBusoff [3, 4] true) small = .fault (.noSuchSlot 4) :=
  ⟨by decide, by decide, rfl, by decide, rfl⟩

/-- A reserved slot and a pending one, in a state that meets the invariants; and a reception into an armed slot. -/
theorem witness_SlotsInUseAreKept :
    BlockInv busy ∧ OrderInv busy ∧ busy.inuseAt 0 = true ∧ (busy.moAt 0).armed = true ∧ busy.txPending 2 = true ∧
      Instr.envTxDone 2 ≠ .reset ∧
      (∃ t, exec (.envTxDone 2) busy = .next t ∧ t.txPending 2 = false ∧ t.inuseAt 0 = true) ∧
      ∃ t, exec (.envRx 0 frameE1) busy = .next t ∧ t.moAt 0 ≠ busy.moAt 0 :=
  ⟨witness_BlockInv, witness_OrderInv, rfl, rfl, rfl, by decide, ⟨_, rfl, rfl, rfl⟩, _, rfl, by decide⟩

theorem witness_MarksArePermanent :
    ∃ s t : State, exec .poll s = .next t ∧ Instr.poll ≠ .reset ∧ s.refused ≠ none ∧ s.faults.counterOverflow = true ∧
      s.faults.handshakeStall = true :=
  ⟨{ small with refused := some .badLength, faults := ⟨true, true⟩ }, _, rfl, by decide, by decide, rfl, rfl⟩

theorem witness_ForegroundWritesOnlyItsState :
    busy.ctrl.ie = true ∧ busy.inited = true ∧ masked.xfer.busy = true ∧
      (fgStep { busy with rdy := [true, true], fg := .recv9 0 Shadow.none }).rdyAt 1 = true := by decide

theorem witness_InterruptsWriteOnlyTheirState :
    opClassOf (Instr.irqRx 0).opcode = 2 ∧ opClassOf Instr.irqStatus.opcode = 2 ∧ (∃ t, exec (.irqRx 0) busy = .next t) ∧
      ∃ t, exec .irqStatus { pendingStatus ⟨false, false, true⟩ ⟨2 ^ 32 - 1, 0⟩ with
        faults := ⟨false, true⟩ } = .next t ∧ t.intpnd.status = true :=
  ⟨by decide, by decide, ⟨_, rfl⟩, _, rfl, rfl⟩

theorem witness_ControllerNeitherReadsNorWritesSoftwareState : opClassOf (Instr.envBusoff [2] true).opcode = 3 := by
  decide

/-- An operation of every row of R101's table completes. -/
theorem witness_MonitorStateFollowsTheStatus :
    (∃ t, exec .envEwarnOn small = .next t ∧ t.fm = .warning) ∧
    (∃ t, exec (.envBusoff [] true) small = .next t ∧ t.fm = .busOff) ∧
    (∃ t, exec (.envSilentHalt [] false) small = .next t ∧ t.fm = .busOff) ∧
    (∃ t, exec .envEwarnOff { small with stat := ⟨false, true, false⟩ } = .next t ∧ t.fm = .normal) ∧
    ∃ t, exec .envRecovered { small with stat := ⟨false, true, true⟩ } = .next t ∧ t.fm = .normal :=
  ⟨⟨_, rfl, rfl⟩, ⟨_, rfl, rfl⟩, ⟨_, rfl, rfl⟩, ⟨_, rfl, rfl⟩, _, rfl, rfl⟩

end Sys2Proof.Tests
end

section
/-! The slots of the block from one operation to the next: what the foreground keeps, the four controller events that
write a slot, and what each of them leaves of a reserved, an armed and a pending slot. -/

namespace Sys2Proof.Machine

/-! ## What the foreground keeps -/

/-- `t` has the slots of `s`, and every receive slot in use in `s` is in use in `t`. -/
structure KeepsSlots (s t : State) : Prop where
  mo : t.mo = s.mo
  inuse : ∀ k, s.inuseAt k = true → t.inuseAt k = true

/-- An equal slot table reads equal at every index. -/
theorem State.moAt_congr {s t : State} (h : t.mo = s.mo) (k : Nat) : t.moAt k = s.moAt k := by
  simp only [State.moAt, h]

/-- A step that writes neither array. -/
theorem KeepsSlots.of_eq {s t : State} (hm : t.mo = s.mo) (hu : t.inuse = s.inuse) : KeepsSlots s t :=
  ⟨hm, fun k h => by simpa only [State.inuseAt, hu] using h⟩

theorem KeepsSlots.refl (s : State) : KeepsSlots s s := .of_eq rfl rfl

/-- Marking a slot in use clears no other mark (R14). -/
theorem setInuse_keepsSlots (s : State) (i : Nat) : KeepsSlots s (s.setInuse i) where
  mo := rfl
  inuse k h := by rw [State.inuseAt_setInuse, h, ite_self]

theorem waitXfer_keepsSlots {s : State} (seen : Nat) (again : Nat → Fg) {done : State → State}
    (hd : KeepsSlots s (done s)) : KeepsSlots s (s.waitXfer seen again done) :=
  State.waitXfer_keeps (KeepsSlots s) seen again (.refl s) (.of_eq rfl rfl) (.of_eq rfl rfl) hd

theorem issueXfer_keepsSlots (s : State) (i : Nat) (image : XferImage) (p : Fg) :
    KeepsSlots s (s.issueXfer i image p) :=
  State.issueXfer_keeps (KeepsSlots s) i image p (.refl s) fun _ => .of_eq rfl rfl

/-- Issuing an operation keeps the slots where its first micro-step does: a refusal sets the mark alone (R123). -/
theorem issue_keepsSlots {s t : State} {pre : Option RefuseReason} {body : State → State}
    (h : s.issue pre body = .next t) (hb : ∀ r : State, KeepsSlots r (body r)) : KeepsSlots s t :=
  State.issue_keeps (KeepsSlots s) h (fun _ => .of_eq rfl rfl) fun _ => ⟨(hb s.begin).mo, (hb s.begin).inuse⟩

/-! ### The micro-steps that branch -/

theorem microRecv1_keepsSlots (i : Nat) (s : State) : KeepsSlots s (microRecv1 i s) := by
  unfold microRecv1
  split_ifs <;> exact .of_eq rfl rfl

theorem microRecvRead_keepsSlots (field : RecvField) (i : Nat) (t : Shadow) (s : State) :
    KeepsSlots s (microRecvRead field i t s) := by
  cases field <;> exact .of_eq rfl rfl

theorem microHalt2_keepsSlots (b : Bool) (after : AfterHalt) (s : State) : KeepsSlots s (microHalt2 b after s) := by
  cases b <;> cases after <;> exact .of_eq rfl rfl

theorem trySendReturn_keepsSlots (f : Frame) (r : ResultCode) (c : Caller) (s : State) :
    KeepsSlots s (trySendReturn f r c s) := by
  cases c <;> exact .of_eq rfl rfl

theorem microTrySend1_keepsSlots (f : Frame) (c : Caller) (s : State) : KeepsSlots s (microTrySend1 f c s) := by
  unfold microTrySend1
  split
  · exact trySendReturn_keepsSlots ..
  · exact .of_eq rfl rfl

theorem microEnqueue_keepsSlots (f : Frame) (s : State) : KeepsSlots s (microEnqueue f s) := by
  unfold microEnqueue
  split <;> exact .of_eq rfl rfl

theorem drainReturn_keepsSlots (r : ResultCode) (poll : Bool) (s : State) : KeepsSlots s (drainReturn r poll s) := by
  cases poll <;> exact .of_eq rfl rfl

theorem microDrain1_keepsSlots (poll : Bool) (s : State) : KeepsSlots s (microDrain1 poll s) := by
  unfold microDrain1
  split
  · exact drainReturn_keepsSlots ..
  · exact .of_eq rfl rfl

theorem microDrain4_keepsSlots (r : ResultCode) (poll : Bool) (s : State) : KeepsSlots s (microDrain4 r poll s) := by
  cases r <;> cases poll <;> exact .of_eq rfl rfl

theorem microSend3_keepsSlots (f : Frame) (r : ResultCode) (s : State) : KeepsSlots s (microSend3 f r s) := by
  cases r <;> exact .of_eq rfl rfl

/-- No micro-step of the foreground writes a slot or takes one out of use (R14, R35). -/
theorem fgStep_keepsSlots (s : State) : KeepsSlots s (fgStep s) := by
  unfold fgStep
  cases s.fg with
  | filter3 => exact issueXfer_keepsSlots ..
  | reserve2 => exact issueXfer_keepsSlots ..
  | trySend2 => exact issueXfer_keepsSlots ..
  | filter4 => exact waitXfer_keepsSlots _ _ (.of_eq rfl rfl)
  | reserve3 => exact waitXfer_keepsSlots _ _ (.of_eq rfl rfl)
  | xferWait => exact waitXfer_keepsSlots _ _ (.of_eq rfl rfl)
  | trySend3 => exact waitXfer_keepsSlots _ _ (.of_eq rfl rfl)
  | filter5 i => exact ⟨rfl, (setInuse_keepsSlots s i).inuse⟩
  | reserve4 i => exact ⟨rfl, (setInuse_keepsSlots s i).inuse⟩
  | halt2 => exact microHalt2_keepsSlots ..
  | trySend1 => exact microTrySend1_keepsSlots ..
  | trySend4 => exact trySendReturn_keepsSlots ..
  | send3 => exact microSend3_keepsSlots ..
  | send4 => exact microEnqueue_keepsSlots ..
  | drain4 => exact microDrain4_keepsSlots ..
  | recv1 => exact microRecv1_keepsSlots ..
  | recvRead => exact microRecvRead_keepsSlots ..
  | _ => exact .of_eq rfl rfl

/-! ## What an operation can do to the slots -/

/-- The scan of RESERVE_RECEIVE_SLOT and REGISTER_FILTER reads the in-use flags (R75 step 1). -/
theorem scanRx_keepsSlots (s : State) (found : Nat → Fg) :
    KeepsSlots s (match s.freeRxSlot with | none => s.ret .noFreeSlot | some i => s.goto (found i)) := by
  split <;> exact .of_eq rfl rfl

theorem raiseStatus_keepsSlots {s t : State} (h : KeepsSlots s t) : KeepsSlots s t.raiseStatus := by
  rw [State.raiseStatus_eq]
  exact ⟨h.mo, h.inuse⟩

theorem raiseSlot_keepsSlots (s : State) (i : Nat) : KeepsSlots s (s.raiseSlot i) := by
  rw [State.raiseSlot_eq]
  exact .of_eq rfl rfl

theorem irqRxEffect_keepsSlots (i : Nat) (s : State) : KeepsSlots s (irqRxEffect i s) := by
  rw [irqRxEffect_eq]
  split <;> exact .of_eq rfl rfl

theorem irqStatusEffect_keepsSlots (s : State) : KeepsSlots s (irqStatusEffect s) := by
  obtain ⟨_, _, h⟩ | ⟨_, _, h⟩ | ⟨_, _, _, h⟩ | ⟨_, _, _, h⟩ | ⟨_, _, h⟩ := irqStatusEffect_cases s <;>
    rw [h] <;> exact .of_eq rfl rfl

theorem xferDoneEffect_inuse (s : State) : (xferDoneEffect s).inuse = s.inuse := by
  cases h : s.xfer.image with
  | filter => rw [xferDoneEffect_filter s h]
  | txframe => rw [xferDoneEffect_txframe s h]

/-- What an operation other than RESET can do to the slots: nothing, or one of the controller's four writes (R105, R106,
R107, R109), each with its precondition and up to the indication it raises. -/
inductive SlotEffect (s t : State) : Instr → Prop where
  | kept {i : Instr} (h : KeepsSlots s t) : SlotEffect s t i
  | transfer (busy : s.xfer.busy = true) (h : t = xferDoneEffect s) : SlotEffect s t .envXferDone
  | reception (k : Nat) (f : Frame) (enabled : s.rxEnabled k f = true)
      (h : KeepsSlots (s.setMo k ((s.moAt k).withFrame f)) t) : SlotEffect s t (.envRx k f)
  | transmission (k : Nat) (inRange : k < s.cfg.N) (enabled : s.txEnabled k = true) (h : t = txDoneEffect k s) :
      SlotEffect s t (.envTxDone k)
  | abandonment {i : Instr} (lost : List Nat) (e : Bool) (hi : i = .envBusoff lost e ∨ i = .envSilentHalt lost e)
      (enabled : s.busoffEnabled lost = true) (h : KeepsSlots (busoffEffect lost e s) t)
      (hl : t.txLost = s.txLost ++ s.framesOf lost) : SlotEffect s t i

/-- A foreground operation whose first micro-step keeps the slots. -/
theorem SlotEffect.of_issue {s t : State} {i : Instr} {pre : Option RefuseReason} {body : State → State}
    (h : s.issue pre body = .next t) (hb : ∀ r : State, KeepsSlots r (body r)) : SlotEffect s t i :=
  .kept (issue_keepsSlots h hb)

/-- An event whose effect, where it is enabled, is one of those. -/
theorem SlotEffect.of_event {s t : State} {i : Instr} {b : Bool} {effect : State → State}
    (h : s.event b effect = .next t) (he : b = true → SlotEffect s (effect s) i) : SlotEffect s t i :=
  State.event_keeps (SlotEffect s · i) h (.kept (.refl s)) he

theorem SlotEffect.of_slotEvent {s t : State} {i : Instr} {k n : Nat} {b : Bool} {effect : State → State}
    (h : s.slotEvent k n b effect = .next t) (he : k < n → b = true → SlotEffect s (effect s) i) : SlotEffect s t i :=
  State.slotEvent_keeps (SlotEffect s · i) h (.kept (.refl s)) he

theorem execXferWait_slotEffect {s t : State} {k : Nat} {image : XferImage} {i : Instr}
    (h : execXferWait k image s = .next t) : SlotEffect s t i := by
  unfold execXferWait at h
  split at h
  · cases h
  · split at h
    · exact .of_issue h fun _ => issueXfer_keepsSlots ..
    · cases h
      exact .kept (.refl s)

theorem execEnvBusoff_slotEffect {s t : State} {lost : List Nat} {e : Bool}
    (h : execEnvBusoff lost e s = .next t) : SlotEffect s t (.envBusoff lost e) := by
  unfold execEnvBusoff at h
  split at h
  · cases h
  · refine .of_event h fun hb => .abandonment lost e (.inl rfl) hb (raiseStatus_keepsSlots (.refl _)) ?_
    rw [State.raiseStatus_eq]
    rfl

theorem execEnvSilentHalt_slotEffect {s t : State} {lost : List Nat} {e : Bool}
    (h : execEnvSilentHalt lost e s = .next t) : SlotEffect s t (.envSilentHalt lost e) := by
  unfold execEnvSilentHalt at h
  split at h
  · cases h
  · exact .of_event h fun hb => .abandonment lost e (.inr rfl) hb (.refl _) rfl

theorem execEnvErrSet_keepsSlots {s t : State} {r : Bool} (h : execEnvErrSet r s = .next t) : KeepsSlots s t := by
  refine State.event_keeps (KeepsSlots s) h (.refl s) fun _ => ?_
  cases r
  · exact .of_eq rfl rfl
  · exact raiseStatus_keepsSlots (.of_eq rfl rfl)

/-- Every operation but RESET has one of those effects on the slots. -/
theorem exec_slotEffect {i : Instr} {s t : State} (h : exec i s = .next t) (hi : i ≠ .reset) : SlotEffect s t i := by
  unfold exec at h
  cases i with
  | init => exact .of_issue h fun _ => .of_eq rfl rfl
  | registerFilter => exact .of_issue h fun _ => scanRx_keepsSlots ..
  | reserveReceiveSlot => exact .of_issue h fun _ => scanRx_keepsSlots ..
  | send => exact .of_issue h fun _ => .of_eq rfl rfl
  | poll => exact .of_issue h (microDrain1_keepsSlots _)
  | drainOne => exact .of_issue h (microDrain1_keepsSlots _)
  | tryReceive => exact .of_issue h (microRecv1_keepsSlots _)
  | rdCounters => exact .of_issue h fun _ => .of_eq rfl rfl
  | xferWait => exact execXferWait_slotEffect h
  | precheckHalt => exact .of_issue h fun _ => .of_eq rfl rfl
  | trySend => exact .of_issue h (microTrySend1_keepsSlots _ _)
  | enqueue => exact .of_issue h (microEnqueue_keepsSlots _)
  | irqRx k => exact .of_slotEvent h fun _ _ => .kept (irqRxEffect_keepsSlots k s)
  | irqStatus => exact .of_event h fun _ => .kept (irqStatusEffect_keepsSlots s)
  | envXferDone => exact .of_event h fun hb => .transfer hb rfl
  | envRx k f => exact .of_slotEvent h fun _ hb => .reception k f hb (raiseSlot_keepsSlots _ k)
  | envTxDone k => exact .of_slotEvent h fun hk hb => .transmission k hk hb rfl
  | envEwarnOn => exact .of_event h fun _ => .kept (raiseStatus_keepsSlots (.of_eq rfl rfl))
  | envEwarnOff => exact .of_event h fun _ => .kept (.of_eq rfl rfl)
  | envBusoff => exact execEnvBusoff_slotEffect h
  | envSilentHalt => exact execEnvSilentHalt_slotEffect h
  | envRecovered => exact .of_event h fun _ => .kept (.of_eq rfl rfl)
  | envErrSet => exact .kept (execEnvErrSet_keepsSlots h)
  | reset => exact absurd rfl hi

/-! ## Reading a slot after one of those writes -/

/-- A completed transfer writes its target alone (R105). -/
theorem xferDoneEffect_moAt_of_ne (s : State) {k : Nat} (hk : s.xfer.target ≠ k) :
    (xferDoneEffect s).moAt k = s.moAt k := by
  cases h : s.xfer.image with
  | filter => simp [xferDoneEffect_filter s h, State.moAt, hk]
  | txframe => simp [xferDoneEffect_txframe s h, State.moAt, hk]

theorem setMo_moAt_of_ne (s : State) (m : MsgObj) {i k : Nat} (hk : i ≠ k) : (s.setMo i m).moAt k = s.moAt k := by
  rw [State.moAt_setMo, if_neg fun h => hk h.1]

theorem txDoneEffect_moAt_of_ne (s : State) {i k : Nat} (hk : i ≠ k) : (txDoneEffect i s).moAt k = s.moAt k :=
  setMo_moAt_of_ne s _ hk

/-- A write of slot `i` leaves slot `k` as it was, or is a write of slot `k` that is read back. -/
theorem moAt_setMo_cases (s : State) (i k : Nat) (m : MsgObj) :
    (s.setMo i m).moAt k = s.moAt k ∨ i = k ∧ (s.setMo i m).moAt k = m := by
  rw [State.moAt_setMo]
  split
  next h => exact .inr ⟨h.1, rfl⟩
  next => exact .inl rfl

theorem abandoned_moAt_of_not_mem (s : State) (e : Bool) {lost : List Nat} {k : Nat} (hk : k ∉ lost) :
    (busoffEffect lost e s).moAt k = s.moAt k := by
  rw [busoffEffect_moAt, if_neg hk]

/-- The frames of a set of slots hold the frame of each of its slots. -/
theorem State.frameOfSlot_mem_framesOf (s : State) {lost : List Nat} {k : Nat} (hk : k ∈ lost) (hn : k < s.cfg.N) :
    frameOfSlot (s.moAt k) ∈ s.framesOf lost :=
  List.mem_map_of_mem (by simp [hk, hn])

/-! ## The regions of the slots that are held -/

theorem BlockInv.lt_of_armed {s : State} (h : BlockInv s) {k : Nat} (ha : (s.moAt k).armed = true) : k < s.cfg.NRX :=
  (h.slots.1 k ha).1

theorem BlockInv.lt_of_inuse {s : State} (h : BlockInv s) {k : Nat} (hu : s.inuseAt k = true) : k < s.cfg.NRX :=
  h.lt_of_armed (h.slots.2.2 k hu)

theorem BlockInv.le_of_txPending {s : State} (h : BlockInv s) {k : Nat} (hp : s.txPending k = true) : s.cfg.NRX ≤ k :=
  (h.slots.2.1 k hp).1

/-- What a pending transfer may program: a receive slot that is not in use, or a transmit slot that is not pending (R76,
R89). -/
theorem BlockInv.target_cases {s : State} (h : BlockInv s) (hb : s.xfer.busy = true) :
    (s.xfer.image.kind = .filter ∧ s.xfer.target < s.cfg.NRX ∧ s.inuseAt s.xfer.target = false) ∨
      (s.cfg.NRX ≤ s.xfer.target ∧ s.txPending s.xfer.target = false) := by
  obtain ⟨-, hok, hfree⟩ := h.port hb
  cases hi : s.xfer.image with
  | filter =>
    simp only [State.xferOk, hi, XferImage.kind, Bool.and_eq_true, decide_eq_true_eq] at hok
    exact .inl ⟨rfl, hok.2, by simpa [hi, XferImage.kind] using hfree⟩
  | txframe =>
    simp only [State.xferOk, hi, XferImage.kind, Bool.and_eq_true, decide_eq_true_eq] at hok
    exact .inr ⟨hok.2.1, by simpa [hi, XferImage.kind] using hfree⟩

theorem BlockInv.target_ne_of_inuse {s : State} (h : BlockInv s) (hb : s.xfer.busy = true) {k : Nat}
    (hu : s.inuseAt k = true) : s.xfer.target ≠ k := by
  rintro rfl
  obtain ⟨-, -, hf⟩ | ⟨hr, -⟩ := h.target_cases hb
  · simp [hf] at hu
  · exact absurd (h.lt_of_inuse hu) (Nat.not_lt.2 hr)

theorem BlockInv.target_ne_of_armed {s : State} (h : BlockInv s) (ho : OrderInv s) (hb : s.xfer.busy = true) {k : Nat}
    (ha : (s.moAt k).armed = true) : s.xfer.target ≠ k := by
  rintro rfl
  obtain ⟨hk, -, -⟩ | ⟨hr, -⟩ := h.target_cases hb
  · simp [(ho.transfer hb hk).1] at ha
  · exact absurd (h.lt_of_armed ha) (Nat.not_lt.2 hr)

theorem BlockInv.target_ne_of_txPending {s : State} (h : BlockInv s) (hb : s.xfer.busy = true) {k : Nat}
    (hp : s.txPending k = true) : s.xfer.target ≠ k := by
  rintro rfl
  obtain ⟨-, hr, -⟩ | ⟨-, hf⟩ := h.target_cases hb
  · exact absurd (h.le_of_txPending hp) (Nat.not_le.2 hr)
  · simp [hf] at hp

theorem State.le_of_txEnabled {s : State} {i : Nat} (hi : i < s.cfg.N) (h : s.txEnabled i = true) : s.cfg.NRX ≤ i :=
  ((s.txEnabled_iff i hi).1 h).1

/-- An abandonment names transmit slots of the block (R109). -/
theorem State.mem_range_of_busoffEnabled {s : State} {lost : List Nat} (h : s.busoffEnabled lost = true) {k : Nat}
    (hk : k ∈ lost) : s.cfg.NRX ≤ k ∧ k < s.cfg.N := by
  obtain ⟨-, ha⟩ := Bool.and_eq_true_iff.1 h
  obtain ⟨hr, hn, -⟩ := (s.abandonable_iff lost).1 ha k hk
  exact ⟨hr, hn⟩

/-! ## The filter of a slot -/

/-- `m'` accepts the frames that `m` accepts, with the same mask, tag width, direction and armed bit; a reception may have
replaced the stored identifier (R106). -/
structure SameFilter (m m' : MsgObj) : Prop where
  mask : m'.mask = m.mask
  xtd : m'.xtd = m.xtd
  dir : m'.dir = m.dir
  armed : m'.armed = m.armed
  accepts : ∀ f, accepts m' f = accepts m f

theorem SameFilter.of_eq {m m' : MsgObj} (h : m' = m) : SameFilter m m' := by
  subst h
  exact ⟨rfl, rfl, rfl, rfl, fun _ => rfl⟩

theorem sameFilter_clearRequest (m : MsgObj) : SameFilter m { m with txrqst := false } :=
  ⟨rfl, rfl, rfl, rfl, fun _ => rfl⟩

/-- Two identifiers that agree on the selected bits below `W` are alike to every third one. -/
theorem selected_bits_congr {a b m : Ident} (W : Nat) (h : ((a ^^^ b) &&& m).toNat % 2 ^ W = 0) (c : Ident) :
    ((c ^^^ a) &&& m).toNat % 2 ^ W = ((c ^^^ b) &&& m).toNat % 2 ^ W := by
  have hx : (c ^^^ b) &&& m = ((c ^^^ a) &&& m) ^^^ ((a ^^^ b) &&& m) := by
    ext i hi
    simp only [BitVec.getElem_and, BitVec.getElem_xor, ← Bool.and_xor_distrib_right]
    simp
  rw [hx, BitVec.toNat_xor, Nat.xor_mod_two_pow, h, Nat.xor_zero]

/-- An accepted frame overwrites the slot's identifier by one that agrees with it wherever the mask selects (R106). -/
theorem sameFilter_withFrame {m : MsgObj} {f : Frame} (h : accepts m f = true) : SameFilter m (m.withFrame f) where
  mask := rfl
  xtd := rfl
  dir := rfl
  armed := rfl
  accepts g := by
    simp only [Machine.accepts, Bool.and_eq_true, decide_eq_true_eq] at h
    simp only [Machine.accepts, MsgObj.withFrame, selected_bits_congr _ h.2]

/-! ## What every operation but RESET keeps -/

section
variable {i : Instr} {s t : State}

/-- A receive slot in use stays in use (R14). -/
theorem SlotEffect.inuse (h : SlotEffect s t i) {k : Nat} (hu : s.inuseAt k = true) : t.inuseAt k = true := by
  cases h with
  | kept h => exact h.inuse k hu
  | transfer _ h => rwa [h, State.inuseAt, xferDoneEffect_inuse]
  | reception _ _ _ h => exact h.inuse k hu
  | transmission _ _ _ h => rwa [h]
  | abandonment _ _ _ _ h => exact h.inuse k hu

/-- A receive slot in use keeps its filter (R76, R144). -/
theorem SlotEffect.sameFilter (h : SlotEffect s t i) (hs : BlockInv s) {k : Nat} (hu : s.inuseAt k = true) :
    SameFilter (s.moAt k) (t.moAt k) := by
  cases h with
  | kept h => exact .of_eq (State.moAt_congr h.mo k)
  | transfer hb h => exact .of_eq (h ▸ xferDoneEffect_moAt_of_ne s (hs.target_ne_of_inuse hb hu))
  | reception j f hf h =>
    rw [State.moAt_congr h.mo]
    obtain hm | ⟨rfl, hm⟩ := moAt_setMo_cases s j k ((s.moAt j).withFrame f)
    · exact .of_eq hm
    · obtain ⟨-, -, -, -, ha, -⟩ := (s.rxEnabled_iff j f).1 hf
      rw [hm]
      exact sameFilter_withFrame ha
  | transmission j hj hb h =>
    have hne : j ≠ k := fun e => absurd (e ▸ hs.lt_of_inuse hu) (Nat.not_lt.2 (State.le_of_txEnabled hj hb))
    exact .of_eq (h ▸ txDoneEffect_moAt_of_ne s hne)
  | abandonment lost e _ hb h =>
    rw [State.moAt_congr h.mo, busoffEffect_moAt]
    split
    · exact sameFilter_clearRequest _
    · exact .of_eq rfl

/-- An armed slot is written by nothing but a reception into it (R85, R106). -/
theorem SlotEffect.armed (h : SlotEffect s t i) (hs : BlockInv s) (ho : OrderInv s) {k : Nat}
    (ha : (s.moAt k).armed = true) :
    t.moAt k = s.moAt k ∨ ∃ f, i = .envRx k f ∧ t.moAt k = (s.moAt k).withFrame f := by
  have hk := hs.lt_of_armed ha
  cases h with
  | kept h => exact .inl (State.moAt_congr h.mo k)
  | transfer hb h => exact .inl (h ▸ xferDoneEffect_moAt_of_ne s (hs.target_ne_of_armed ho hb ha))
  | reception j f _ h =>
    rw [State.moAt_congr h.mo]
    obtain hm | ⟨rfl, hm⟩ := moAt_setMo_cases s j k ((s.moAt j).withFrame f)
    · exact .inl hm
    · exact .inr ⟨f, rfl, hm⟩
  | transmission j hj hb h =>
    have hne : j ≠ k := fun e => absurd (e ▸ hk) (Nat.not_lt.2 (State.le_of_txEnabled hj hb))
    exact .inl (h ▸ txDoneEffect_moAt_of_ne s hne)
  | abandonment lost e _ hb h =>
    rw [State.moAt_congr h.mo]
    exact .inl (abandoned_moAt_of_not_mem s e fun hm =>
      absurd hk (Nat.not_lt.2 (State.mem_range_of_busoffEnabled hb hm).1))

/-- A pending transmit slot is unchanged, or free with its frame transmitted or abandoned (R2, R89). -/
theorem SlotEffect.pending (h : SlotEffect s t i) (hs : BlockInv s) {k : Nat} (hp : s.txPending k = true) :
    t.moAt k = s.moAt k ∨
      t.txPending k = false ∧
        (t.busTx = s.busTx ++ [frameOfSlot (s.moAt k)] ∨
          ∃ l, t.txLost = s.txLost ++ l ∧ frameOfSlot (s.moAt k) ∈ l) := by
  cases h with
  | kept h => exact .inl (State.moAt_congr h.mo k)
  | transfer hb h => exact .inl (h ▸ xferDoneEffect_moAt_of_ne s (hs.target_ne_of_txPending hb hp))
  | reception j f hf h =>
    have hne : j ≠ k := fun e =>
      absurd (hs.le_of_txPending hp) (Nat.not_le.2 (e ▸ ((s.rxEnabled_iff j f).1 hf).1))
    rw [State.moAt_congr h.mo]
    exact .inl (setMo_moAt_of_ne s _ hne)
  | transmission j _ _ h =>
    subst h
    obtain hm | ⟨rfl, hm⟩ := moAt_setMo_cases s j k { s.moAt j with txrqst := false }
    · exact .inl hm
    · exact .inr ⟨congrArg MsgObj.txrqst hm, .inl rfl⟩
  | abandonment lost e _ hb h hl =>
    rw [State.txPending_eq, State.moAt_congr h.mo, busoffEffect_moAt]
    split
    next hm =>
      exact .inr ⟨rfl, .inr ⟨_, hl, s.frameOfSlot_mem_framesOf hm (State.mem_range_of_busoffEnabled hb hm).2⟩⟩
    next => exact .inl rfl

end

/-- Settles O54: every micro-step of the foreground keeps the slots, and every operation but RESET is inverted once into
what it can do to them (`exec_slotEffect`), from which each clause follows by the cases of that effect. -/
theorem slotsInUseAreKept : Obligations.SlotsInUseAreKept := by
  unfold Obligations.SlotsInUseAreKept
  refine ⟨fun s => ⟨(fgStep_keepsSlots s).mo, (fgStep_keepsSlots s).inuse⟩, fun i s t ht hi => ?_⟩
  have h := exec_slotEffect ht hi
  refine ⟨fun k => h.inuse, fun hs => ⟨fun k hu => ?_, fun ho k => h.armed hs ho, fun k => h.pending hs⟩⟩
  obtain ⟨hmask, hxtd, hdir, harmed, hacc⟩ := h.sameFilter hs hu
  exact ⟨hmask, hxtd, hdir, harmed, hacc⟩

end Sys2Proof.Machine
end

section
/-! The invariants after reset. -/

namespace Sys2Proof.Machine

/-- The constraints of R6. -/
theorem Params.ok_iff (p : Params) : p.ok = true ↔ 1 ≤ p.N ∧ p.NRX ≤ p.N ∧ 2 ^ Nat.log2 p.QCAP = p.QCAP := by
  simp [Params.ok, and_assoc]

/-- A queue of R6's capacities holds at least one frame. -/
theorem Params.capacity_pos {p : Params} (h : p.ok = true) : 0 < p.QCAP := by
  obtain ⟨-, -, hq⟩ := (Params.ok_iff p).1 h
  exact hq ▸ Nat.two_pow_pos _

section
variable (p : Params) (n : Nat) (ins : List Input)

theorem afterReset_moAt (i : Nat) :
    ((State.afterReset p n ins).moAt i).armed = false ∧ ((State.afterReset p n ins).moAt i).txrqst = false := by
  by_cases hi : i < p.N <;> simp [State.moAt, State.afterReset, List.getD, hi, MsgObj.afterReset, MsgObj.none]

theorem afterReset_inuseAt (i : Nat) : (State.afterReset p n ins).inuseAt i = false :=
  List.getElem?_getD_replicate_default_eq ..

theorem afterReset_rdyAt (i : Nat) : (State.afterReset p n ins).rdyAt i = false :=
  List.getElem?_getD_replicate_default_eq ..

theorem afterReset_slotPending (i : Nat) : (State.afterReset p n ins).slotPending i = false :=
  List.getElem?_getD_replicate_default_eq ..

theorem afterReset_txSeq : (State.afterReset p n ins).txSeq = [] := rfl

theorem afterReset_blockInv (hp : p.ok = true) : BlockInv (State.afterReset p n ins) where
  params := hp
  storage := afterReset_wf p n ins
  queue := ⟨Params.capacity_pos hp, Nat.zero_le _, fun k hk => absurd hk (Nat.not_lt_zero k)⟩
  counters := ⟨Nat.zero_le _, Nat.zero_le _⟩
  slots := by simp [SlotsOk, afterReset_moAt, afterReset_inuseAt]
  txSeq := ⟨List.nodup_nil, fun i => by simp [State.txPending, afterReset_moAt, afterReset_txSeq]⟩
  port := nofun
  position := trivial
  gate := ⟨nofun, nofun⟩
  halt := ⟨nofun, nofun, nofun, fun _ => ⟨rfl, afterReset_slotPending p n ins⟩, nofun⟩

theorem afterReset_lengthInv : LengthInv (State.afterReset p n ins) where
  pending i hi := by simp [afterReset_slotPending] at hi
  ready i hi := by simp [afterReset_rdyAt] at hi
  reading := trivial
  delivered := nofun

theorem afterReset_orderInv : OrderInv (State.afterReset p n ins) where
  prefixed i hi := by simp [afterReset_inuseAt] at hi
  reserving := trivial
  armed i hi := by simp [afterReset_moAt] at hi
  transfer := nofun

end

/-- Settles O50: after reset every flag is clear, the queue is empty and the foreground idle, so each clause is vacuous
or is R6's own constraint. -/
theorem resetMeetsTheInvariant : Obligations.ResetMeetsTheInvariant := by
  unfold Obligations.ResetMeetsTheInvariant
  refine ⟨fun p n ins hp => ?_, afterReset_blockInv _ _ _ (by decide)⟩
  exact ⟨afterReset_blockInv p n ins hp, afterReset_lengthInv p n ins, afterReset_orderInv p n ins⟩

end Sys2Proof.Machine
end

section
/-! What the block invariant asks of the foreground's position, in phases, and the moves from one position to the next
that keep it. -/

namespace Sys2Proof.Machine

/-! ## Phases of the foreground -/

/-- What the gate and the halt bit ask of a position (R73, R132, R157). -/
inductive Phase where
  /-- nothing -/
  | plain
  /-- INIT has halted the controller -/
  | halting
  /-- INIT has released it again -/
  | releasing
  /-- the interrupt gate is closed -/
  | masked
  /-- the operation has stalled, with the gate as it was -/
  | stalled

/-- The phase of each position. -/
def Fg.phase : Fg → Phase
  | .init2 _ => .halting
  | .init3 _ => .halting
  | .init4 => .halting
  | .init5 => .releasing
  | .init6 => .releasing
  | .filter3 _ _ _ _ => .masked
  | .filter4 _ _ => .masked
  | .filter5 _ => .masked
  | .filter6 => .masked
  | .stalled => .stalled
  | _ => .plain

theorem State.masked_iff (s : State) : s.masked = true ↔ s.fg.phase = .masked := by
  unfold State.masked Fg.phase
  cases s.fg <;> simp

theorem State.initialising_iff (s : State) :
    s.initialising = true ↔ s.fg.phase = .halting ∨ s.fg.phase = .releasing := by
  unfold State.initialising Fg.phase
  cases s.fg <;> simp

theorem State.released_iff (s : State) : s.released = true ↔ s.inited = true ∨ s.fg.phase = .releasing := by
  unfold State.released Fg.phase
  cases s.fg <;> simp

theorem Fg.phase_eq_stalled (p : Fg) : p.phase = .stalled ↔ p = .stalled := by
  cases p <;> simp [Fg.phase]

/-- A move within a phase keeps the gate. -/
theorem GateOk.goto {s : State} (h : GateOk s) {p₀ p : Fg} (hfg : s.fg = p₀) (hp : p.phase = p₀.phase) :
    GateOk (s.goto p) := by
  subst hfg
  obtain ⟨hclosed, hwhy⟩ := h
  simp only [State.masked_iff, ← Fg.phase_eq_stalled] at hclosed hwhy
  simp only [GateOk, State.masked_iff, ← Fg.phase_eq_stalled]
  simp only [State.goto, hp]
  exact ⟨hclosed, hwhy⟩

/-- Outside the masked interval, and short of a stall there, the gate is open (R157). -/
theorem GateOk.open_at {s : State} (h : GateOk s) {p : Fg} (hfg : s.fg = p) (hm : (s.goto p).masked = false)
    (hs : p ≠ .stalled) : s.irqEn = true := by
  subst hfg
  rw [← Bool.not_eq_false]
  intro he
  rcases h.2 he with hmask | hstall
  · exact absurd (hm.symm.trans hmask) Bool.noConfusion
  · exact hs hstall

theorem GateOk.of_open {s : State} (he : s.irqEn = true) (hm : s.masked = false) : GateOk s :=
  ⟨fun h => absurd (hm.symm.trans h) Bool.noConfusion, fun h => absurd (he.symm.trans h) Bool.noConfusion⟩

/-- A move within a phase keeps what INIT asks of the halt bit, but for INIT's last step, which needs the sources
enabled. -/
theorem HaltOk.goto {s : State} (h : HaltOk s) {p₀ p : Fg} (hfg : s.fg = p₀) (hp : p.phase = p₀.phase)
    (h6 : p ≠ .init6) : HaltOk (s.goto p) := by
  subst hfg
  obtain ⟨hrun, hie, -, hoff, hrel⟩ := h
  simp only [State.initialising_iff, State.released_iff] at hrun hrel
  refine ⟨?_, hie, fun e => absurd e h6, hoff, ?_⟩
  · simpa only [State.initialising_iff, State.goto, hp] using hrun
  · simpa only [State.released_iff, State.goto, hp] using hrel

/-- A move to a position outside INIT asks nothing of the halt bit that was not asked before. -/
theorem HaltOk.leave {s : State} (h : HaltOk s) {p : Fg} (hi : (s.goto p).initialising = false) :
    HaltOk (s.goto p) := by
  obtain ⟨-, hie, -, hoff, hrel⟩ := h
  have hp : p.phase ≠ .halting ∧ p.phase ≠ .releasing := by
    simpa [← Bool.not_eq_true, State.initialising_iff] using hi
  refine ⟨fun h => absurd (hi.symm.trans h) Bool.noConfusion, hie, ?_, hoff, fun hr => hrel ?_⟩
  · rintro rfl
    exact absurd rfl hp.2
  · rw [State.released_iff] at hr ⊢
    exact hr.imp_right fun e => absurd e hp.2

/-- What holds of the position that the foreground is at. -/
theorem FgOk.at_position {s : State} (h : FgOk s) {p : Fg} (hfg : s.fg = p) : FgOk (s.goto p) := hfg ▸ h

/-! ## Writes that the invariant does not see -/

section
variable {s : State} (h : BlockInv s)
include h

theorem BlockInv.begin : BlockInv s.begin := { h with }

theorem BlockInv.fetched (rest : List Input) (ctx : Context) : BlockInv (s.fetched rest ctx) := { h with }

theorem BlockInv.raiseRefuse (r : RefuseReason) : BlockInv (s.raiseRefuse r) := { h with }

theorem BlockInv.raiseCounterOverflow : BlockInv s.raiseCounterOverflow := { h with }

theorem BlockInv.setRdy (i : Nat) (b : Bool) : BlockInv (s.setRdy i b) :=
  { h with storage := setRdy_keeps_wf s i b h.storage }

/-- Clearing the halt bit is always safe: the invariant bounds only when it may be set. -/
theorem BlockInv.clearHalt : BlockInv (s.setHalt false) := by
  obtain ⟨hrun, hie, h6, hoff, -⟩ := h.halt
  exact { h with halt := ⟨hrun, hie, h6, hoff, nofun⟩ }

theorem BlockInv.clearStatusPending : BlockInv (s.setStatusPending false) := by
  obtain ⟨hrun, hie, h6, hoff, hrel⟩ := h.halt
  exact { h with halt := ⟨hrun, hie, h6, fun he => ⟨rfl, (hoff he).2⟩, hrel⟩ }

/-! ## Moves of the foreground -/

/-- The port is free at a position that neither waits nor has stalled (R28, R74). -/
theorem BlockInv.port_free {p : Fg} (hfg : s.fg = p) (hw : (s.goto p).waiting = false) (hs : p ≠ .stalled) :
    s.xfer.busy = false := by
  subst hfg
  rw [← Bool.not_eq_true]
  intro hb
  rcases (h.port hb).1 with hwait | hstall
  · exact absurd (hw.symm.trans hwait) Bool.noConfusion
  · exact hs hstall

/-- What the invariant says of the position the foreground is at. -/
theorem BlockInv.fgOk_at {p : Fg} (hfg : s.fg = p) : FgOk (s.goto p) := h.position.at_position hfg

/-- A move to a position of the same phase, with any results on the ports. -/
theorem BlockInv.moves {p₀ p : Fg} (po : Ports) (out : List Frame) (clk bt : Nat) (hfg : s.fg = p₀)
    (hp : p.phase = p₀.phase) (h6 : p ≠ .init6) (hw : s.xfer.busy = false ∨ (s.goto p).waiting = true)
    (hpos : FgOk (s.goto p)) :
    BlockInv { s with fg := p, ports := po, rxOut := out, clkdiv := clk, bt := bt } :=
  { h with
    port := fun hb => ⟨.inl (hw.resolve_left (ne_false_of_eq_true hb)), (h.port hb).2⟩
    position := hpos
    gate := h.gate.goto hfg hp
    halt := h.halt.goto hfg hp h6 }

/-- A stall changes nothing that the invariant bounds: the gate may stay closed for good (R157). -/
theorem BlockInv.stalls : BlockInv s.raiseHandshakeStall :=
  { h with
    port := fun hb => ⟨.inr rfl, (h.port hb).2⟩
    position := trivial
    gate := ⟨nofun, fun _ => .inr rfl⟩
    halt := h.halt.leave (p := .stalled) rfl }

/-- The wait step: the counted position and the end of the wait are what is left to show. -/
theorem BlockInv.waits {p₀ : Fg} {seen : Nat} {again : Nat → Fg} {done : State → State} (hfg : s.fg = p₀)
    (hp : (again (seen + 1)).phase = p₀.phase) (h6 : again (seen + 1) ≠ .init6)
    (hw : (s.goto (again (seen + 1))).waiting = true) (hpos : FgOk (s.goto (again (seen + 1))))
    (ends : s.xfer.busy = false → BlockInv (done s)) : BlockInv (s.waitXfer seen again done) := by
  rcases s.waitXfer_cases seen again done with ⟨hb, e⟩ | ⟨-, e | e | e⟩ <;> rw [e]
  · exact ends hb
  · exact h
  · exact h.moves _ _ _ _ hfg hp h6 (.inr hw) hpos
  · exact h.stalls

/-- The issue step, to a wait of the same phase, with a target of the image's region that nothing holds. -/
theorem BlockInv.issues {p₀ p : Fg} {i : Nat} {image : XferImage} (hfg : s.fg = p₀) (hp : p.phase = p₀.phase)
    (h6 : p ≠ .init6) (hw : (s.goto p).waiting = true) (hok : s.xferOk i image = true) (hfree : s.slotFree i image.kind)
    (hpos : FgOk { s with xfer := ⟨true, i, image⟩, fg := p }) : BlockInv (s.issueXfer i image p) :=
  State.issueXfer_keeps BlockInv i image p h fun _ =>
    { h with
      port := fun _ => ⟨.inl hw, hok, hfree⟩
      position := hpos
      gate := h.gate.goto hfg hp
      halt := h.halt.goto hfg hp h6 }

end

/-! ## Acting outside INIT and the masked interval -/

/-- The invariant where the foreground is about to act: in the plain phase, with the port free. -/
structure Acts (s : State) : Prop extends BlockInv s where
  phase : s.fg.phase = .plain
  free : s.xfer.busy = false

theorem BlockInv.acts {s : State} (h : BlockInv s) {p : Fg} (hfg : s.fg = p) (hp : p.phase = .plain)
    (hw : (s.goto p).waiting = false) : Acts s :=
  { h with
    phase := hfg ▸ hp
    free := h.port_free hfg hw (by rintro rfl; cases hp) }

section
variable {s : State} (h : Acts s)
include h

theorem Acts.to {p : Fg} (po : Ports) (out : List Frame) (hp : p.phase = .plain) (hpos : FgOk (s.goto p)) :
    BlockInv { s with fg := p, ports := po, rxOut := out } :=
  h.moves po out s.clkdiv s.bt rfl (hp.trans h.phase.symm) (by rintro rfl; cases hp) (.inl h.free) hpos

theorem Acts.goto {p : Fg} (hp : p.phase = .plain) (hpos : FgOk (s.goto p)) : BlockInv (s.goto p) :=
  h.to s.ports s.rxOut hp hpos

theorem Acts.ret (r : ResultCode) : BlockInv (s.ret r) := h.to _ s.rxOut rfl trivial

end

end Sys2Proof.Machine
end

section
/-! The block invariant from one micro-step of the foreground to the next. -/

namespace Sys2Proof.Machine

/-! ## The images of checked operands -/

theorem State.xferOk_filterImage (s : State) {i : Nat} {mask value : Word} {extended : Bool} (hi : i < s.cfg.NRX)
    (hv : fitsIdent value extended = true) : s.xferOk i (filterImage mask value extended) = true := by
  simp only [State.xferOk, imageOk_filterImage mask value extended hv, Bool.true_and]
  exact decide_eq_true hi

theorem State.xferOk_txImage (s : State) {i : Nat} {f : Frame} (hr : s.cfg.NRX ≤ i) (hn : i < s.cfg.N)
    (hf : frameOk f = true) : s.xferOk i (txImage f) = true := by
  simp only [State.xferOk, imageOk_txImage f hf, Bool.true_and]
  exact Bool.and_eq_true_iff.2 ⟨decide_eq_true hr, decide_eq_true hn⟩

/-! ## The queue -/

/-- A frame appended to a queue with room (R92, R96). -/
theorem QueueOk.append {s : State} (h : QueueOk s) (hl : s.q.ring.length = s.cfg.QCAP) (hc : s.q.count ≠ s.cfg.QCAP)
    {f : Frame} (hf : frameOk f = true) :
    QueueOk { s with q := { s.q with ring := s.q.ring.set s.tailIndex f, count := s.q.count + 1 } } := by
  obtain ⟨hhead, hcount, hvalid⟩ := h
  have hroom : s.q.count < s.cfg.QCAP := by omega
  refine ⟨hhead, hroom, fun k hk => ?_⟩
  rw [State.ringAt, getD_set]
  split
  next => exact hf
  next hne =>
    refine hvalid k (Nat.lt_of_le_of_ne (Nat.le_of_lt_succ hk) ?_)
    rintro rfl
    exact hne ⟨rfl, by rw [hl]; exact Nat.mod_lt _ (by omega)⟩

/-- The oldest frame dropped (R93). -/
theorem QueueOk.drop {s : State} (h : QueueOk s) : QueueOk s.dropHead := by
  obtain ⟨hhead, hcount, hvalid⟩ := h
  refine ⟨Nat.mod_lt _ (by omega), Nat.le_trans (Nat.sub_le _ _) hcount, fun k hk => ?_⟩
  have hnext : k + 1 < s.q.count := Nat.add_lt_of_lt_sub hk
  simpa [Nat.add_assoc, Nat.add_comm 1] using hvalid (k + 1) hnext

/-- The head of a queue that is not empty is a queued frame (R93). -/
theorem QueueOk.frameOk_head {s : State} (h : QueueOk s) (hc : 0 < s.q.count) : frameOk (s.ringAt s.q.head) = true := by
  obtain ⟨hhead, -, hvalid⟩ := h
  simpa [Nat.mod_eq_of_lt hhead] using hvalid 0 hc

/-! ## The micro-steps that branch -/

section
variable {s : State} (h : Acts s)
include h

theorem Acts.microRecv1 (i : Nat) : BlockInv (microRecv1 i s) := by
  unfold Machine.microRecv1
  split_ifs with hi
  · exact h.goto rfl hi
  · exact h.goto rfl trivial
  · exact h.ret _
  · exact h.ret _

theorem Acts.microRecvRead (field : RecvField) {i : Nat} (t : Shadow) (hi : i < s.cfg.NRX) :
    BlockInv (microRecvRead field i t s) := by
  cases field <;> exact h.goto rfl hi

theorem Acts.microHalt1 {after : AfterHalt} (ha : AfterHaltOk s after) : BlockInv (microHalt1 after s) :=
  h.goto rfl ha

theorem Acts.clearHalt : Acts (s.setHalt false) := { h.toBlockInv.clearHalt with phase := h.phase, free := h.free }

theorem Acts.microHalt2 (b : Bool) {after : AfterHalt} (ha : AfterHaltOk s after) :
    BlockInv (microHalt2 b after s) := by
  cases b <;> cases after
  · exact h.ret _
  · exact h.goto rfl ha
  · exact h.clearHalt.ret _
  · exact h.clearHalt.goto rfl ha

theorem Acts.trySendReturn {f : Frame} (r : ResultCode) {c : Caller} (ha : AttemptOk s f c) :
    BlockInv (trySendReturn f r c s) := by
  cases c
  · exact h.ret _
  · exact h.goto rfl ha.1
  · exact h.goto rfl ha.2

theorem Acts.microTrySend1 {f : Frame} {c : Caller} (ha : AttemptOk s f c) : BlockInv (microTrySend1 f c s) := by
  unfold Machine.microTrySend1
  split
  next => exact h.trySendReturn _ ha
  next i hi =>
    obtain ⟨hr, hn, hp, -⟩ := (s.freeTxSlot_eq_some i).1 hi
    exact h.goto rfl ⟨ha, hr, hn, hp⟩

theorem Acts.microEnqueue {f : Frame} (hf : frameOk f = true) : BlockInv (microEnqueue f s) := by
  unfold Machine.microEnqueue
  split
  next => exact h.ret _
  next hc =>
    obtain ⟨hmo, hinuse, hrdy, hsh, hslot, hring⟩ := h.storage
    exact { h.ret .ok with
      storage := ⟨hmo, hinuse, hrdy, hsh, hslot, List.length_set.trans hring⟩
      queue := h.queue.append hring hc hf
      position := trivial }

theorem Acts.drainReturn (r : ResultCode) (poll : Bool) : BlockInv (drainReturn r poll s) := by
  cases poll
  · exact h.ret _
  · exact h.goto rfl trivial

theorem Acts.microDrain1 (poll : Bool) : BlockInv (microDrain1 poll s) := by
  unfold Machine.microDrain1
  split
  next => exact h.drainReturn _ _
  next hc =>
    have hc := Nat.pos_of_ne_zero hc
    exact h.goto rfl ⟨h.queue.frameOk_head hc, hc⟩

theorem Acts.microDrain4 (r : ResultCode) (poll : Bool) : BlockInv (microDrain4 r poll s) := by
  cases r with
  | ok =>
    cases poll
    · exact { h.drainReturn .ok false with queue := h.queue.drop, position := trivial }
    · exact { h.drainReturn .ok true with queue := h.queue.drop, position := trivial }
  | _ => exact h.drainReturn _ _

theorem Acts.microSend3 {f : Frame} (r : ResultCode) (hf : frameOk f = true) : BlockInv (microSend3 f r s) := by
  cases r with
  | ok => exact h.ret _
  | _ => exact h.goto rfl hf

/-- The scan of RESERVE_RECEIVE_SLOT and REGISTER_FILTER finds a slot that is not in use (R75 step 1). -/
theorem Acts.scanRx {found : Nat → Fg} (hp : ∀ i, (found i).phase = .plain)
    (hpos : ∀ i, i < s.cfg.NRX → s.inuseAt i = false → FgOk (s.goto (found i))) :
    BlockInv (match s.freeRxSlot with | none => s.ret .noFreeSlot | some i => s.goto (found i)) := by
  split
  next => exact h.ret _
  next i hi =>
    obtain ⟨hr, hu, -⟩ := (s.freeRxSlot_eq_some i).1 hi
    exact h.goto (hp i) (hpos i hr hu)

end

/-- Marking an armed slot in use, by a foreground that then waits for nothing (R75, R77). -/
theorem BlockInv.setInuse {s : State} (h : BlockInv s) {i : Nat} (ha : (s.moAt i).armed = true)
    (hb : s.xfer.busy = false) (hpos : FgOk (s.setInuse i)) : BlockInv (s.setInuse i) := by
  obtain ⟨harm, hreq, huse⟩ := h.slots
  refine { h with
    storage := setInuse_keeps_wf s i h.storage
    slots := ⟨harm, hreq, fun k hk => ?_⟩
    port := fun hb' => absurd (hb.symm.trans hb') Bool.noConfusion
    position := hpos }
  rw [State.inuseAt_setInuse] at hk
  split at hk
  next e => exact e.1 ▸ ha
  next => exact huse k hk

/-! ## INIT -/

section
variable {s : State} (h : BlockInv s) {p₀ : Fg} (hfg : s.fg = p₀)
include h hfg

/-- Until INIT has completed the block is not initialised (R73). -/
theorem BlockInv.not_inited (hi : (s.goto p₀).initialising = true) : s.inited = false := by
  subst hfg
  exact h.halt.1 hi

/-- Where INIT has released the halt, the halt bit is set only together with bus-off. -/
theorem BlockInv.halted_only_by_busoff (hr : (s.goto p₀).released = true) :
    s.ctrl.init = true → s.stat.boff = true := by
  obtain ⟨-, -, -, -, hrel⟩ := h.halt
  subst hfg
  exact hrel hr

/-- A step of INIT: what is left to show is what it makes of the halt bit. -/
theorem BlockInv.initialises {p : Fg} (c : Ctrl) (b : Bool) (po : Ports) (hw : (s.goto p₀).waiting = false)
    (hm : (s.goto p₀).masked = false) (hs : p₀ ≠ .stalled) (hm' : (s.goto p).masked = false) (hpos : FgOk (s.goto p))
    (hh : HaltOk { s with ctrl := c, inited := b, fg := p }) :
    BlockInv { s with ctrl := c, inited := b, fg := p, ports := po } :=
  { h with
    port := fun hb => absurd ((h.port_free hfg hw hs).symm.trans hb) Bool.noConfusion
    position := hpos
    gate := .of_open (h.gate.open_at hfg hm hs) hm'
    halt := hh }

end

/-- INIT, step 1, of a block that is not initialised: the halt bit may be set. -/
theorem BlockInv.init1 {s : State} (h : BlockInv s) (hfg : s.fg = .idle) (hn : s.inited = false) (baud : Baud) :
    BlockInv ((s.setHalt true).goto (.init2 baud)) := by
  obtain ⟨-, hie, -, hoff, -⟩ := h.halt
  refine h.initialises hfg _ _ _ rfl rfl nofun rfl trivial ⟨fun _ => hn, hie, nofun, hoff, fun hr => ?_⟩
  rcases (State.released_iff _).1 hr with hr | hr
  · exact absurd (hn.symm.trans hr) Bool.noConfusion
  · cases hr

/-- INIT, step 4, releases the halt. -/
theorem BlockInv.init4 {s : State} (h : BlockInv s) (hfg : s.fg = .init4) : BlockInv (microInit4 s) := by
  obtain ⟨-, hie, -, hoff, -⟩ := h.halt
  exact h.initialises hfg _ _ _ rfl rfl nofun rfl trivial ⟨fun _ => h.not_inited hfg rfl, hie, nofun, hoff, nofun⟩

/-- INIT, step 5, enables the sources. -/
theorem BlockInv.init5 {s : State} (h : BlockInv s) (hfg : s.fg = .init5) : BlockInv (microInit5 s) := by
  have hrel := h.halted_only_by_busoff hfg ((State.released_iff _).2 (.inr rfl))
  exact h.initialises hfg _ _ _ rfl rfl nofun rfl trivial
    ⟨fun _ => h.not_inited hfg rfl, fun _ => rfl, fun _ => rfl, nofun, fun _ => hrel⟩

/-- INIT, step 6, finds the sources enabled. -/
theorem BlockInv.init6 {s : State} (h : BlockInv s) (hfg : s.fg = .init6) : BlockInv (microInit6 s) := by
  obtain ⟨-, -, hie, hoff, -⟩ := h.halt
  have hrel := h.halted_only_by_busoff hfg ((State.released_iff _).2 (.inr rfl))
  exact h.initialises hfg _ _ _ rfl rfl nofun rfl trivial ⟨nofun, fun _ => hie hfg, nofun, hoff, fun _ => hrel⟩

/-! ## The masked interval of REGISTER_FILTER -/

/-- REGISTER_FILTER, step 2, closes the gate as the interval begins. -/
theorem BlockInv.filter2 {s : State} (h : BlockInv s) {i : Nat} {mask value : Word} {extended : Bool}
    (hfg : s.fg = .filter2 i mask value extended) : BlockInv (microFilter2 i mask value extended s) :=
  { h with
    port := fun hb => absurd ((h.port_free hfg rfl nofun).symm.trans hb) Bool.noConfusion
    position := h.fgOk_at hfg
    gate := ⟨fun _ => rfl, fun _ => .inl rfl⟩
    halt := h.halt.leave (p := .filter3 i mask value extended) rfl }

/-- REGISTER_FILTER, step 6, opens it as the interval ends. -/
theorem BlockInv.filter6 {s : State} (h : BlockInv s) (hfg : s.fg = .filter6) : BlockInv (microFilter6 s) :=
  { h with
    port := fun hb => absurd ((h.port_free hfg rfl nofun).symm.trans hb) Bool.noConfusion
    position := trivial
    gate := .of_open rfl rfl
    halt := h.halt.leave (p := .filter7) rfl }

/-- Once its transfer is complete, a reservation's slot is armed. -/
theorem ReservationOk.armed {s : State} {i : Nat} (h : ReservationOk s i) (hb : s.xfer.busy = false) :
    i < s.cfg.NRX ∧ (s.moAt i).armed = true := by
  simpa [ReservationOk, hb] using h

/-! ## Every micro-step -/

theorem fgStep_blockInv {s : State} (h : BlockInv s) : BlockInv (fgStep s) := by
  unfold fgStep
  cases hfg : s.fg with
  | idle => exact h
  | stalled => exact h
  | init2 => exact h.moves _ _ _ _ hfg rfl nofun (.inl (h.port_free hfg rfl nofun)) trivial
  | init3 => exact h.moves _ _ _ _ hfg rfl nofun (.inl (h.port_free hfg rfl nofun)) trivial
  | init4 => exact h.init4 hfg
  | init5 => exact h.init5 hfg
  | init6 => exact h.init6 hfg
  | filter2 => exact h.filter2 hfg
  | filter3 i mask value extended =>
    obtain ⟨hi, hv, hu⟩ : i < s.cfg.NRX ∧ fitsIdent value extended = true ∧ s.inuseAt i = false := h.fgOk_at hfg
    exact h.issues hfg rfl nofun rfl (s.xferOk_filterImage hi hv) hu ⟨hi, rfl, rfl⟩
  | filter4 i seen =>
    have hr : ReservationOk s i := h.fgOk_at hfg
    refine h.waits hfg rfl nofun rfl hr fun hb => ?_
    exact h.moves _ _ _ _ hfg rfl nofun (.inl hb) (hr.armed hb)
  | filter5 i =>
    obtain ⟨hi, ha⟩ : i < s.cfg.NRX ∧ (s.moAt i).armed = true := h.fgOk_at hfg
    have hb := h.port_free hfg rfl nofun
    have hm : BlockInv (s.goto .filter6) := h.moves _ _ _ _ hfg rfl nofun (.inl hb) trivial
    exact hm.setInuse ha hb trivial
  | filter6 => exact h.filter6 hfg
  | filter7 => exact (h.acts hfg rfl rfl).ret _
  | reserve2 i mask value extended =>
    obtain ⟨hi, hv, hu⟩ : i < s.cfg.NRX ∧ fitsIdent value extended = true ∧ s.inuseAt i = false := h.fgOk_at hfg
    exact h.issues hfg rfl nofun rfl (s.xferOk_filterImage hi hv) hu ⟨hi, rfl, rfl⟩
  | reserve3 i seen =>
    have hr : ReservationOk s i := h.fgOk_at hfg
    refine h.waits hfg rfl nofun rfl hr fun hb => ?_
    exact h.moves _ _ _ _ hfg rfl nofun (.inl hb) (hr.armed hb)
  | reserve4 i =>
    obtain ⟨hi, ha⟩ : i < s.cfg.NRX ∧ (s.moAt i).armed = true := h.fgOk_at hfg
    have hs := h.acts hfg rfl rfl
    have hret := hs.to (p := .idle) { s.ports with code := some .ok, slot := i } s.rxOut rfl trivial
    exact hret.setInuse ha hs.free trivial
  | xferWait seen =>
    refine h.waits hfg rfl nofun rfl trivial fun hb => ?_
    exact h.moves _ _ _ _ hfg rfl nofun (.inl hb) trivial
  | halt1 => exact (h.acts hfg rfl rfl).microHalt1 (h.fgOk_at hfg)
  | halt2 => exact (h.acts hfg rfl rfl).microHalt2 _ (h.fgOk_at hfg)
  | trySend1 => exact (h.acts hfg rfl rfl).microTrySend1 (h.fgOk_at hfg)
  | trySend2 f i c =>
    obtain ⟨ha, hr, hn, hp⟩ : AttemptOk s f c ∧ s.cfg.NRX ≤ i ∧ i < s.cfg.N ∧ s.txPending i = false :=
      h.fgOk_at hfg
    exact h.issues hfg rfl nofun rfl (s.xferOk_txImage hr hn ha.1) hp ha
  | trySend3 f seen c =>
    have ha : AttemptOk s f c := h.fgOk_at hfg
    refine h.waits hfg rfl nofun rfl ha fun hb => ?_
    exact h.moves _ _ _ _ hfg rfl nofun (.inl hb) ha
  | trySend4 => exact (h.acts hfg rfl rfl).trySendReturn _ (h.fgOk_at hfg)
  | send3 => exact (h.acts hfg rfl rfl).microSend3 _ (h.fgOk_at hfg)
  | send4 => exact (h.acts hfg rfl rfl).microEnqueue (h.fgOk_at hfg)
  | drain4 => exact (h.acts hfg rfl rfl).microDrain4 _ _
  | poll2 => exact (h.acts hfg rfl rfl).ret _
  | recv1 => exact (h.acts hfg rfl rfl).microRecv1 _
  | recvRead => exact (h.acts hfg rfl rfl).microRecvRead _ _ (h.fgOk_at hfg)
  | recv9 => exact ((h.acts hfg rfl rfl).goto (p := .recv10 _) rfl trivial).setRdy _ _
  | recv10 => exact (h.acts hfg rfl rfl).to _ _ rfl trivial
  | counters2 => exact (h.acts hfg rfl rfl).to _ _ rfl trivial
  | counters3 => exact (h.acts hfg rfl rfl).ret _

end Sys2Proof.Machine
end

section
/-! The block invariant from one operation to the next: the interrupt context's two effects, the controller's events,
and the foreground's operations. -/

namespace Sys2Proof.Machine

/-! ## The interrupt context -/

section
variable {s : State} (h : BlockInv s)
include h

theorem BlockInv.setSh (i : Nat) (e : Shadow) : BlockInv (s.setSh i e) :=
  { h with storage := setSh_keeps_wf s i e h.storage }

theorem BlockInv.clearSlotPending (i : Nat) : BlockInv (s.setSlotPending i false) := by
  obtain ⟨hrun, hie, h6, hoff, hrel⟩ := h.halt
  refine { h with
    storage := setSlotPending_keeps_wf s i false h.storage
    halt := ⟨hrun, hie, h6, fun he => ⟨(hoff he).1, fun k => ?_⟩, hrel⟩ }
  rw [State.slotPending_setSlotPending]
  split
  · rfl
  · exact (hoff he).2 k

/-- The counters may take any values of their width. -/
theorem BlockInv.setCnt (c : Counters) (hb : c.boff ≤ ones s.cfg.CNTW) (he : c.ewarn ≤ ones s.cfg.CNTW) :
    BlockInv { s with cnt := c } := { h with counters := ⟨hb, he⟩ }

/-- The error flag and the warning level are free, and so is the bus-off level while the halt bit is clear. -/
theorem BlockInv.setStat (t : Stat) (ht : s.ctrl.init = true → s.stat.boff = true → t.boff = true) :
    BlockInv { s with stat := t } := by
  obtain ⟨hrun, hie, h6, hoff, hrel⟩ := h.halt
  exact { h with halt := ⟨hrun, hie, h6, hoff, fun hr hi => ht hi (hrel hr hi)⟩ }

theorem BlockInv.irqRxEffect (i : Nat) : BlockInv (irqRxEffect i s) := by
  unfold Machine.irqRxEffect
  split
  · exact (h.setStat { s.stat with err := false } fun _ hb => hb).clearSlotPending i
  · exact ((h.setSh i _).setRdy i true).clearSlotPending i

theorem BlockInv.irqStatusEffect : BlockInv (irqStatusEffect s) := by
  obtain ⟨hboff, hewarn⟩ := h.counters
  rcases irqStatusEffect_cases s with ⟨-, -, e⟩ | ⟨-, hc, e⟩ | ⟨-, -, -, e⟩ | ⟨-, -, hc, e⟩ | ⟨-, -, e⟩ <;> rw [e]
  · exact h.raiseCounterOverflow
  · exact ((h.setCnt { s.cnt with boff := s.cnt.boff + 1 } hc hewarn).clearHalt).clearStatusPending
  · exact h.raiseCounterOverflow
  · exact (h.setCnt { s.cnt with ewarn := s.cnt.ewarn + 1 } hboff hc).clearStatusPending
  · exact h.clearStatusPending

/-! ## The indications the controller raises -/

theorem BlockInv.raiseSlot (i : Nat) : BlockInv (s.raiseSlot i) := by
  obtain ⟨hrun, hie, h6, -, hrel⟩ := h.halt
  unfold State.raiseSlot
  split
  next he =>
    exact { h with
      storage := setSlotPending_keeps_wf s i true h.storage
      halt := ⟨hrun, hie, h6, fun hf => absurd (he.symm.trans hf) Bool.noConfusion, hrel⟩ }
  next => exact h

theorem BlockInv.raiseStatus : BlockInv s.raiseStatus := by
  obtain ⟨hrun, hie, h6, -, hrel⟩ := h.halt
  unfold State.raiseStatus
  split
  next he => exact { h with halt := ⟨hrun, hie, h6, fun hf => absurd (he.symm.trans hf) Bool.noConfusion, hrel⟩ }
  next => exact h

end

/-! ## Writes of the slots by the bus -/

/-- `m'` is in the role `m` is in: armed or not, with the same direction, and pending only if `m` is. -/
structure KeepsRole (m m' : MsgObj) : Prop where
  armed : m'.armed = m.armed
  dir : m'.dir = m.dir
  txrqst : m'.txrqst = true → m.txrqst = true

theorem KeepsRole.refl (m : MsgObj) : KeepsRole m m := ⟨rfl, rfl, id⟩

theorem keepsRole_withFrame (m : MsgObj) (f : Frame) : KeepsRole m (m.withFrame f) := ⟨rfl, rfl, id⟩

theorem keepsRole_clearRequest (m : MsgObj) : KeepsRole m { m with txrqst := false } := ⟨rfl, rfl, nofun⟩

/-- The slots of `mo` are in the roles of those of `s`. -/
def KeepsRoles (s : State) (mo : List MsgObj) : Prop := ∀ i, KeepsRole (s.moAt i) (mo.getD i MsgObj.none)

theorem keepsRoles_set (s : State) (i : Nat) {m : MsgObj} (hm : KeepsRole (s.moAt i) m) :
    KeepsRoles s (s.mo.set i m) := by
  intro k
  rw [getD_set]
  split
  next e => exact e.1 ▸ hm
  next => exact .refl _

theorem KeepsRoles.slotsOk {s : State} {mo : List MsgObj} (hr : KeepsRoles s mo) (h : SlotsOk s) :
    SlotsOk { s with mo := mo } := by
  obtain ⟨harm, hreq, huse⟩ := h
  refine ⟨fun i hi => ?_, fun i hi => ?_, fun i hi => (hr i).armed.trans (huse i hi)⟩
  · obtain ⟨hlt, hdir⟩ := harm i ((hr i).armed.symm.trans hi)
    exact ⟨hlt, (hr i).dir.trans hdir⟩
  · obtain ⟨hle, hdir⟩ := hreq i ((hr i).txrqst hi)
    exact ⟨hle, (hr i).dir.trans hdir⟩

section
variable {s : State} {mo : List MsgObj} (hr : KeepsRoles s mo)
include hr

theorem KeepsRoles.armed_eq (i : Nat) : (({ s with mo := mo } : State).moAt i).armed = (s.moAt i).armed := (hr i).armed

/-- A slot that is not pending stays so. -/
theorem KeepsRoles.not_pending {i : Nat} (hp : s.txPending i = false) :
    ({ s with mo := mo } : State).txPending i = false := by
  rw [← Bool.not_eq_true] at hp ⊢
  exact fun h => hp ((hr i).txrqst h)

/-- What a transfer may program, it may still program. -/
theorem KeepsRoles.slotFree {i : Nat} {kind : XferKind} (hf : s.slotFree i kind) :
    ({ s with mo := mo } : State).slotFree i kind := by
  cases kind with
  | filter => exact hf
  | txframe => exact hr.not_pending hf

theorem KeepsRoles.fgOk (h : FgOk s) : FgOk { s with mo := mo } := by
  have hreserves {i : Nat} (hi : ReservationOk s i) : ReservationOk { s with mo := mo } i := by
    simpa only [ReservationOk, hr.armed_eq] using hi
  cases hfg : s.fg with
  | filter4 => exact hreserves (h.at_position hfg)
  | reserve3 => exact hreserves (h.at_position hfg)
  | filter5 => exact (h.at_position hfg).imp_right (hr.armed_eq _).trans
  | reserve4 => exact (h.at_position hfg).imp_right (hr.armed_eq _).trans
  | trySend2 f i c =>
    obtain ⟨ha, hi, hn, hp⟩ : AttemptOk s f c ∧ s.cfg.NRX ≤ i ∧ i < s.cfg.N ∧ s.txPending i = false :=
      h.at_position hfg
    exact ⟨ha, hi, hn, hr.not_pending hp⟩
  | _ => exact h.at_position hfg

/-- A write that keeps every slot's role keeps the invariant where it keeps the programming order. -/
theorem KeepsRoles.blockInv (h : BlockInv s) {seq : List Nat} (hl : mo.length = s.mo.length)
    (hseq : TxSeqOk { s with mo := mo, txSeq := seq }) : BlockInv { s with mo := mo, txSeq := seq } := by
  obtain ⟨hmo, hrest⟩ := h.storage
  refine { h with
    storage := ⟨hl.trans hmo, hrest⟩
    slots := hr.slotsOk h.slots
    txSeq := hseq
    port := fun hb => ?_
    position := hr.fgOk h.position }
  obtain ⟨hw, hok, hfree⟩ := h.port hb
  exact ⟨hw, hok, hr.slotFree hfree⟩

end

/-- Slots taken off the programming order are those whose request is cleared (R107). -/
theorem TxSeqOk.filter {s : State} (h : TxSeqOk s) {mo : List MsgObj} (keep : Nat → Bool)
    (hk : ∀ i, (mo.getD i MsgObj.none).txrqst = (keep i && s.txPending i)) :
    TxSeqOk { s with mo := mo, txSeq := s.txSeq.filter keep } := by
  obtain ⟨hnd, hmem⟩ := h
  refine ⟨hnd.filter keep, fun i => ?_⟩
  rw [State.txPending_eq, State.moAt, hk]
  simp [hmem, and_comm]

/-- A write that leaves a slot as pending as it was keeps the programming order. -/
theorem TxSeqOk.setMo {s : State} (h : TxSeqOk s) {i : Nat} {m : MsgObj} (hm : m.txrqst = s.txPending i) :
    TxSeqOk (s.setMo i m) := by
  obtain ⟨hnd, hmem⟩ := h
  refine ⟨hnd, fun k => (hmem k).trans (Eq.congr_left ?_)⟩
  rw [State.txPending_eq (s.setMo i m)]
  obtain e | ⟨rfl, e⟩ := moAt_setMo_cases s i k m <;> rw [e]
  · rfl
  · exact hm.symm

section
variable {s : State} (h : BlockInv s)
include h

theorem BlockInv.rxEffect (i : Nat) (f : Frame) : BlockInv (rxEffect i f s) := by
  have hr : KeepsRoles s (s.mo.set i ((s.moAt i).withFrame f)) := keepsRoles_set s i (keepsRole_withFrame _ f)
  have hm : BlockInv (s.setMo i ((s.moAt i).withFrame f)) := hr.blockInv h List.length_set (h.txSeq.setMo rfl)
  exact hm.raiseSlot i

theorem BlockInv.txDoneEffect {i : Nat} (hi : i < s.cfg.N) : BlockInv (txDoneEffect i s) := by
  have hr : KeepsRoles s (s.mo.set i { s.moAt i with txrqst := false }) :=
    keepsRoles_set s i (keepsRole_clearRequest _)
  have hseq := h.txSeq.filter (mo := s.mo.set i { s.moAt i with txrqst := false }) (· ≠ i) fun k => by
    have hl : i < s.mo.length := h.storage.1 ▸ hi
    rw [getD_set]
    by_cases hk : i = k
    · simp [hk, hk ▸ hl]
    · simp [hk, Ne.symm hk, State.txPending, State.moAt]
  exact { hr.blockInv h List.length_set hseq with }

theorem BlockInv.busoffEffect (lost : List Nat) (e : Bool) : BlockInv (busoffEffect lost e s) := by
  have hr : KeepsRoles s (Machine.busoffEffect lost e s).mo := fun i => by
    change KeepsRole _ ((Machine.busoffEffect lost e s).moAt i)
    rw [busoffEffect_moAt]
    split
    · exact keepsRole_clearRequest _
    · exact .refl _
  have hseq := h.txSeq.filter (mo := (Machine.busoffEffect lost e s).mo) (· ∉ lost) fun k => by
    change ((Machine.busoffEffect lost e s).moAt k).txrqst = _
    rw [busoffEffect_moAt]
    by_cases hk : k ∈ lost <;> simp [hk, State.txPending]
  obtain ⟨hrun, hie, h6, hoff, hrel⟩ := h.halt
  exact { hr.blockInv h List.length_mapIdx hseq with halt := ⟨hrun, hie, h6, hoff, fun _ _ => rfl⟩ }

end

/-! ## Completion of a transfer -/

/-- A target lies in the region of its image's kind (R12). -/
theorem State.target_region {s : State} {i : Nat} {image : XferImage} (h : s.xferOk i image = true) :
    (image.kind = .filter → i < s.cfg.NRX) ∧ (image.kind = .txframe → s.cfg.NRX ≤ i ∧ i < s.cfg.N) := by
  simp only [State.xferOk, Bool.and_eq_true] at h
  cases image with
  | filter => exact ⟨fun _ => of_decide_eq_true h.2, nofun⟩
  | txframe => exact ⟨nofun, fun _ => (Bool.and_eq_true_iff.1 h.2).imp of_decide_eq_true of_decide_eq_true⟩

/-- A slot that is written in the role of its region. -/
theorem SlotsOk.setMo {s : State} (h : SlotsOk s) {i : Nat} {m : MsgObj}
    (ha : m.armed = true → i < s.cfg.NRX ∧ m.dir = false) (ht : m.txrqst = true → s.cfg.NRX ≤ i ∧ m.dir = true)
    (hu : s.inuseAt i = true → m.armed = true) : SlotsOk (s.setMo i m) := by
  obtain ⟨harm, hreq, huse⟩ := h
  refine ⟨fun k hk => ?_, fun k hk => ?_, fun k hk => ?_⟩
  · obtain e | ⟨rfl, e⟩ := moAt_setMo_cases s i k m <;> rw [e] at hk ⊢
    · exact harm k hk
    · exact ha hk
  · obtain e | ⟨rfl, e⟩ := moAt_setMo_cases s i k m <;> rw [e] at hk ⊢
    · exact hreq k hk
    · exact ht hk
  · obtain e | ⟨rfl, e⟩ := moAt_setMo_cases s i k m <;> rw [e]
    · exact huse k hk
    · exact hu hk

/-- A slot that becomes pending goes to the end of the programming order. -/
theorem TxSeqOk.append {s : State} (h : TxSeqOk s) {i : Nat} (hi : i < s.mo.length) {m : MsgObj}
    (hm : m.txrqst = true) : TxSeqOk { s.setMo i m with txSeq := s.txSeq.filter (· ≠ i) ++ [i] } := by
  obtain ⟨hnd, hmem⟩ := h
  refine ⟨List.concat_eq_append ▸ (hnd.filter _).concat (by simp), fun k => ?_⟩
  have hk : (s.setMo i m).txPending k = true ↔ i = k ∨ s.txPending k = true := by
    rw [State.txPending_eq, State.moAt_setMo]
    rcases eq_or_ne i k with rfl | hne
    · simp [hi, hm]
    · simp [hne, State.txPending]
  change k ∈ s.txSeq.filter (· ≠ i) ++ [i] ↔ (s.setMo i m).txPending k = true
  rw [hk, ← hmem]
  rcases eq_or_ne i k with rfl | hne
  · simp
  · simp [hne, hne.symm]

section
variable {s : State} (h : BlockInv s) (hb : s.xfer.busy = true)
include h hb

/-- The position after the pending transfer has landed: a reservation's slot is armed by it. -/
theorem BlockInv.fgOk_completed {mo : List MsgObj}
    (ha : s.xfer.image.kind = .filter → (mo.getD s.xfer.target MsgObj.none).armed = true) :
    FgOk { s with mo := mo, xfer := { s.xfer with busy := false } } := by
  have hreserves {i : Nat} (hi : ReservationOk s i) :
      ReservationOk { s with mo := mo, xfer := { s.xfer with busy := false } } i := by
    obtain ⟨hlt, hw⟩ := hi
    rw [if_pos hb] at hw
    obtain ⟨rfl, hk⟩ := hw
    exact ⟨hlt, ha hk⟩
  have hwait := (h.port hb).1
  cases hfg : s.fg with
  | filter4 => exact hreserves (h.fgOk_at hfg)
  | reserve3 => exact hreserves (h.fgOk_at hfg)
  | xferWait => exact trivial
  | trySend3 => exact h.fgOk_at hfg
  | stalled => exact trivial
  | _ => simp [State.waiting, hfg] at hwait

/-- A FILTER image arms its receive slot, which is not pending (R64, R105). -/
theorem BlockInv.filter_lands {id mask : Ident} {xtd : Bool} (him : s.xfer.image = .filter id mask xtd) :
    BlockInv (xferDoneEffect s) := by
  obtain ⟨-, hok, -⟩ := h.port hb
  have hr : s.xfer.target < s.cfg.NRX := (State.target_region hok).1 (him ▸ rfl)
  have hl : s.xfer.target < s.mo.length := by
    obtain ⟨-, hn, -⟩ := (Params.ok_iff _).1 h.params
    rw [h.storage.1]
    exact Nat.lt_of_lt_of_le hr hn
  have hp : s.txPending s.xfer.target = false := by
    rw [← Bool.not_eq_true]
    exact fun hp => absurd (h.le_of_txPending hp) (Nat.not_le.2 hr)
  have hstore := xferDoneEffect_keeps_wf s h.storage
  rw [xferDoneEffect_filter s him] at hstore ⊢
  exact { h with
    storage := hstore
    slots := h.slots.setMo (fun _ => ⟨hr, rfl⟩) nofun fun _ => rfl
    txSeq := h.txSeq.setMo hp.symm
    port := nofun
    position := h.fgOk_completed hb fun _ => by simp [hl, MsgObj.withFilter] }

/-- A TXFRAME image makes a transmit slot pending (R64, R105). -/
theorem BlockInv.txframe_lands {id : Ident} {xtd : Bool} {dlc : Dlc} {w : DataWords}
    (him : s.xfer.image = .txframe id xtd dlc w) : BlockInv (xferDoneEffect s) := by
  obtain ⟨-, hok, -⟩ := h.port hb
  obtain ⟨hr, hn⟩ := (State.target_region hok).2 (him ▸ rfl)
  have hl : s.xfer.target < s.mo.length := h.storage.1 ▸ hn
  have hstore := xferDoneEffect_keeps_wf s h.storage
  rw [xferDoneEffect_txframe s him] at hstore ⊢
  exact { h with
    storage := hstore
    slots := h.slots.setMo nofun (fun _ => ⟨hr, rfl⟩) fun hu => absurd (h.lt_of_inuse hu) (Nat.not_lt.2 hr)
    txSeq := h.txSeq.append hl rfl
    port := nofun
    position := h.fgOk_completed hb fun hk => by simp [him, XferImage.kind] at hk }

theorem BlockInv.xferDoneEffect : BlockInv (xferDoneEffect s) := by
  cases him : s.xfer.image with
  | filter => exact h.filter_lands hb him
  | txframe => exact h.txframe_lands hb him

end

/-! ## Every operation -/

/-- Issuing an operation keeps the invariant where its first micro-step does, from an idle foreground. -/
theorem BlockInv.issue {s t : State} (h : BlockInv s) {pre : Option RefuseReason} {body : State → State}
    (ht : s.issue pre body = .next t) (hb : pre = none → s.fg = .idle → Acts s.begin → BlockInv (body s.begin)) :
    BlockInv t := by
  rcases State.issue_cases ht with ⟨r, rfl⟩ | ⟨⟨-, hfg⟩, hpre, rfl⟩
  · exact h.raiseRefuse r
  · exact hb hpre hfg (h.begin.acts hfg rfl rfl)

theorem BlockInv.execXferWait {s t : State} (h : BlockInv s) {i : Nat} {image : XferImage}
    (ht : execXferWait i image s = .next t) : BlockInv t := by
  unfold Machine.execXferWait at ht
  split at ht
  · cases ht
  split at ht
  next ha =>
    refine h.issue ht fun _ hfg hs => ?_
    have hok := s.xferOk_of_allowed i image ha
    have hfree := s.slotFree_of_allowed i image ha
    cases image with
    | filter =>
      exact hs.issues hfg rfl nofun rfl hok hfree ⟨(State.target_region hok).1 rfl, rfl, rfl⟩
    | txframe => exact hs.issues hfg rfl nofun rfl hok hfree trivial
  next =>
    cases ht
    exact h

/-- A bus-off that names slots of the block is an event (R109). -/
theorem execEnvBusoff_event {s t : State} {lost : List Nat} {e : Bool} (h : execEnvBusoff lost e s = .next t) :
    s.event (s.busoffEnabled lost) (fun s => (busoffEffect lost e s).raiseStatus) = .next t := by
  unfold execEnvBusoff at h
  split at h
  · cases h
  · exact h

/-- So is a silent halt (R110). -/
theorem execEnvSilentHalt_event {s t : State} {lost : List Nat} {e : Bool} (h : execEnvSilentHalt lost e s = .next t) :
    s.event (s.busoffEnabled lost) (busoffEffect lost e) = .next t := by
  unfold execEnvSilentHalt at h
  split at h
  · cases h
  · exact h

theorem exec_blockInv {i : Instr} {s t : State} (h : BlockInv s) (ht : exec i s = .next t) : BlockInv t := by
  unfold exec at ht
  cases i with
  | init baud =>
    refine h.issue ht fun hn hfg hs => hs.init1 hfg ?_ baud
    cases hi : s.inited
    · exact hi
    · simp [hi] at hn
  | registerFilter =>
    refine h.issue ht fun hn _ hs => hs.scanRx (fun _ => rfl) fun i hi hu => ?_
    exact ⟨hi, (filterRefusal_eq_none _ _).1 (Option.or_eq_none_iff.1 hn).2, hu⟩
  | send =>
    refine h.issue ht fun hn _ hs => hs.microHalt1 ⟨?_, trivial⟩
    exact (frameRefusal_eq_none _).1 (Option.or_eq_none_iff.1 hn).2
  | poll => exact h.issue ht fun _ _ hs => hs.microDrain1 _
  | tryReceive => exact h.issue ht fun _ _ hs => hs.microRecv1 _
  | rdCounters => exact h.issue ht fun _ _ hs => hs.to _ _ rfl trivial
  | reserveReceiveSlot =>
    refine h.issue ht fun hn _ hs => hs.scanRx (fun _ => rfl) fun i hi hu => ?_
    exact ⟨hi, (filterRefusal_eq_none _ _).1 hn, hu⟩
  | xferWait => exact h.execXferWait ht
  | precheckHalt => exact h.issue ht fun _ _ hs => hs.microHalt1 trivial
  | trySend => exact h.issue ht fun hn _ hs => hs.microTrySend1 ⟨(frameRefusal_eq_none _).1 hn, trivial⟩
  | enqueue => exact h.issue ht fun hn _ hs => hs.microEnqueue ((frameRefusal_eq_none _).1 hn)
  | drainOne => exact h.issue ht fun _ _ hs => hs.microDrain1 _
  | irqRx i => exact State.slotEvent_keeps BlockInv ht h fun _ _ => h.irqRxEffect i
  | irqStatus => exact State.event_keeps BlockInv ht h fun _ => h.irqStatusEffect
  | envXferDone => exact State.event_keeps BlockInv ht h fun hb => h.xferDoneEffect hb
  | envRx i f => exact State.slotEvent_keeps BlockInv ht h fun _ _ => h.rxEffect i f
  | envTxDone => exact State.slotEvent_keeps BlockInv ht h fun hi _ => h.txDoneEffect hi
  | envEwarnOn =>
    exact State.event_keeps BlockInv ht h fun _ => (h.setStat { s.stat with ewarn := true } fun _ hb => hb).raiseStatus
  | envEwarnOff => exact State.event_keeps BlockInv ht h fun _ => h.setStat _ fun _ hb => hb
  | envBusoff => exact State.event_keeps BlockInv (execEnvBusoff_event ht) h fun _ => (h.busoffEffect _ _).raiseStatus
  | envSilentHalt => exact State.event_keeps BlockInv (execEnvSilentHalt_event ht) h fun _ => h.busoffEffect _ _
  | envRecovered =>
    refine State.event_keeps BlockInv ht h fun hen => h.setStat _ fun hi => ?_
    simp [hi] at hen
  | envErrSet r =>
    refine State.event_keeps BlockInv ht h fun _ => ?_
    have he := h.setStat { s.stat with err := true } fun _ hb => hb
    cases r
    · exact he
    · exact he.raiseStatus
  | reset =>
    cases ht
    exact afterReset_blockInv _ _ _ h.params

/-! ## Every step -/

/-- All that a step can do: once its input is taken, the foreground's next micro-step, an operation, or the refusal of
an illegal code (R49, R68). -/
theorem step_cases {s t : State} (ht : step s = .next t) :
    ∃ u, (u = s ∨ ∃ rest ctx, u = s.fetched rest ctx) ∧
      (t = fgStep u ∨ (∃ i, exec i u = .next t) ∨ t = u.raiseRefuse .illegalOp) := by
  unfold step fetch at ht
  cases hin : s.inputs with rw [hin] at ht
  | nil =>
    cases ht
    exact ⟨s, .inl rfl, .inl rfl⟩
  | cons e rest =>
    cases e with
    | advance =>
      cases ht
      exact ⟨_, .inr ⟨rest, _, rfl⟩, .inl rfl⟩
    | label i => exact ⟨_, .inr ⟨rest, _, rfl⟩, .inr (.inl ⟨i, ht⟩)⟩
    | command ctx code o =>
      refine ⟨_, .inr ⟨rest, ctx, rfl⟩, .inr ?_⟩
      simp only [fetchCommand] at ht
      cases hc : commanded code o with rw [hc] at ht
      | none =>
        cases ht
        exact .inr rfl
      | some i => exact .inl ⟨i, ht⟩

/-- Settles O51: taking the input touches nothing that the invariant reads, and every micro-step of the foreground
(`fgStep_blockInv`) and every operation (`exec_blockInv`) keeps it. -/
theorem stepKeepsTheInvariant : Obligations.StepKeepsTheInvariant := by
  unfold Obligations.StepKeepsTheInvariant
  intro s t h ht
  obtain ⟨u, hu, hmove⟩ := step_cases ht
  have hinv : BlockInv u := by
    rcases hu with rfl | ⟨rest, ctx, rfl⟩
    · exact h
    · exact h.fetched rest ctx
  rcases hmove with rfl | ⟨i, hi⟩ | rfl
  · exact fgStep_blockInv hinv
  · exact exec_blockInv hinv hi
  · exact hinv.raiseRefuse _

end Sys2Proof.Machine
end

section
/-! Who writes what (spec/10_state.md R35): the foreground's column, the interrupt context's and the controller's, and
the fault monitor's state, which only the controller and RESET change. -/

namespace Sys2Proof.Machine

/-! ## The foreground -/

/-- `t` has what the foreground never writes as in `s` (R35, column FG), and of what it may write only in one direction
no other change. A field not given is unchanged by the step's own definition. -/
structure ForegroundFrame (s t : State) : Prop where
  cfg : t.cfg = s.cfg := by rfl
  mo : t.mo = s.mo := by rfl
  sh : t.sh = s.sh := by rfl
  cnt : t.cnt = s.cnt := by rfl
  stat : t.stat = s.stat := by rfl
  intpnd : t.intpnd = s.intpnd := by rfl
  busTx : t.busTx = s.busTx := by rfl
  txLost : t.txLost = s.txLost := by rfl
  txSeq : t.txSeq = s.txSeq := by rfl
  refused : t.refused = s.refused := by rfl
  draws : t.draws = s.draws := by rfl
  inputs : t.inputs = s.inputs := by rfl
  issuer : t.issuer = s.issuer := by rfl
  overflow : t.faults.counterOverflow = s.faults.counterOverflow := by rfl
  ie : s.ctrl.ie = true → t.ctrl.ie = true := by exact id
  inited : s.inited = true → t.inited = true := by exact id
  xfer : s.xfer.busy = true → t.xfer = s.xfer := by exact fun _ => rfl
  rdy : ∀ i, t.rdyAt i = true → s.rdyAt i = true := by exact fun _ => id

namespace ForegroundFrame

theorem waitXfer {s : State} {seen : Nat} {again : Nat → Fg} {done : State → State} (hd : ForegroundFrame s (done s)) :
    ForegroundFrame s (s.waitXfer seen again done) :=
  State.waitXfer_keeps (ForegroundFrame s) seen again {} {} {} hd

/-- The issue step finds the port free. -/
theorem issueXfer (s : State) (i : Nat) (image : XferImage) (p : Fg) : ForegroundFrame s (s.issueXfer i image p) :=
  State.issueXfer_keeps (ForegroundFrame s) i image p {} fun hb =>
    { xfer := fun hb' => absurd (hb.symm.trans hb') Bool.noConfusion }

theorem microRecv1 (i : Nat) (s : State) : ForegroundFrame s (microRecv1 i s) := by
  unfold Machine.microRecv1
  split_ifs <;> exact {}

theorem microRecvRead (field : RecvField) (i : Nat) (t : Shadow) (s : State) :
    ForegroundFrame s (microRecvRead field i t s) := by
  cases field <;> exact {}

/-- TRY_RECEIVE clears the flag of the slot that it has read, and sets none. -/
theorem microRecv9 (i : Nat) (t : Shadow) (s : State) : ForegroundFrame s (microRecv9 i t s) where
  rdy k hk := by
    change (s.setRdy i false).rdyAt k = true at hk
    rw [State.rdyAt_setRdy] at hk
    split at hk
    · cases hk
    · exact hk

theorem microHalt2 (b : Bool) (after : AfterHalt) (s : State) : ForegroundFrame s (microHalt2 b after s) := by
  cases b <;> cases after <;> exact {}

theorem trySendReturn (f : Frame) (r : ResultCode) (c : Caller) (s : State) :
    ForegroundFrame s (trySendReturn f r c s) := by
  cases c <;> exact {}

theorem microTrySend1 (f : Frame) (c : Caller) (s : State) : ForegroundFrame s (microTrySend1 f c s) := by
  unfold Machine.microTrySend1
  split
  · exact trySendReturn ..
  · exact {}

theorem microEnqueue (f : Frame) (s : State) : ForegroundFrame s (microEnqueue f s) := by
  unfold Machine.microEnqueue
  split <;> exact {}

theorem microDrain1 (poll : Bool) (s : State) : ForegroundFrame s (microDrain1 poll s) := by
  unfold Machine.microDrain1
  cases poll <;> split <;> exact {}

theorem microDrain4 (r : ResultCode) (poll : Bool) (s : State) : ForegroundFrame s (microDrain4 r poll s) := by
  cases r <;> cases poll <;> exact {}

theorem microSend3 (f : Frame) (r : ResultCode) (s : State) : ForegroundFrame s (microSend3 f r s) := by
  cases r <;> exact {}

/-- The scan of RESERVE_RECEIVE_SLOT and REGISTER_FILTER (R75 step 1). -/
theorem scanRx (s : State) (found : Nat → Fg) :
    ForegroundFrame s (match s.freeRxSlot with | none => s.ret .noFreeSlot | some i => s.goto (found i)) := by
  split <;> exact {}

end ForegroundFrame

/-- Every micro-step of the foreground. -/
theorem fgStep_frame (s : State) : ForegroundFrame s (fgStep s) := by
  unfold fgStep
  cases s.fg with
  | filter3 => exact .issueXfer ..
  | reserve2 => exact .issueXfer ..
  | trySend2 => exact .issueXfer ..
  | filter4 => exact .waitXfer {}
  | reserve3 => exact .waitXfer {}
  | xferWait => exact .waitXfer {}
  | trySend3 => exact .waitXfer {}
  | init5 => exact { ie := fun _ => rfl }
  | init6 => exact { inited := fun _ => rfl }
  | halt2 => exact .microHalt2 ..
  | trySend1 => exact .microTrySend1 ..
  | trySend4 => exact .trySendReturn ..
  | send3 => exact .microSend3 ..
  | send4 => exact .microEnqueue ..
  | drain4 => exact .microDrain4 ..
  | recv1 => exact .microRecv1 ..
  | recvRead => exact .microRecvRead ..
  | recv9 => exact .microRecv9 ..
  | _ => exact {}

/-- Settles O56: the frame of the foreground's micro-steps, clause by clause. -/
theorem foregroundWritesOnlyItsState : Obligations.ForegroundWritesOnlyItsState := by
  unfold Obligations.ForegroundWritesOnlyItsState
  intro s
  have h := fgStep_frame s
  exact ⟨h.cfg, h.mo, h.sh, h.cnt, h.stat, h.intpnd, h.busTx, h.txLost, h.txSeq, h.refused, h.draws, h.inputs, h.issuer,
    h.overflow, h.ie, h.inited, h.xfer, h.rdy⟩

/-! ### The first micro-step -/

/-- An issued operation is refused, or keeps the frame its first micro-step keeps (R123). -/
theorem issue_frame {s t : State} {pre : Option RefuseReason} {body : State → State} (h : s.issue pre body = .next t)
    (hb : ∀ r : State, ForegroundFrame r (body r)) : (∃ r, t = s.raiseRefuse r) ∨ ForegroundFrame s t :=
  (State.issue_cases h).imp_right fun ⟨_, _, ht⟩ => ht ▸ { hb s.begin with }

theorem execXferWait_frame {s t : State} {i : Nat} {image : XferImage} (h : execXferWait i image s = .next t) :
    (∃ r, t = s.raiseRefuse r) ∨ ForegroundFrame s t := by
  unfold execXferWait at h
  split at h
  · cases h
  split at h
  · exact issue_frame h fun _ => .issueXfer ..
  · cases h
    exact .inr {}

/-- A host or internal operation sets the refusal mark alone, or keeps the frame of the foreground's micro-steps. -/
theorem exec_frame {i : Instr} {s t : State} (hi : opClassOf i.opcode ≤ 1) (h : exec i s = .next t) :
    (∃ r, t = s.raiseRefuse r) ∨ ForegroundFrame s t := by
  unfold exec at h
  cases i with
  | init => exact issue_frame h fun _ => {}
  | registerFilter => exact issue_frame h fun _ => .scanRx ..
  | send => exact issue_frame h fun _ => {}
  | poll => exact issue_frame h (.microDrain1 _)
  | tryReceive => exact issue_frame h (.microRecv1 _)
  | rdCounters => exact issue_frame h fun _ => {}
  | reserveReceiveSlot => exact issue_frame h fun _ => .scanRx ..
  | xferWait => exact execXferWait_frame h
  | precheckHalt => exact issue_frame h fun _ => {}
  | trySend => exact issue_frame h (.microTrySend1 _ _)
  | enqueue => exact issue_frame h (.microEnqueue _)
  | drainOne => exact issue_frame h (.microDrain1 _)
  | _ => exact absurd hi (by simp only [Instr.opcode]; decide)

/-! ## The interrupt context -/

/-- `t` has what the interrupt context never writes as in `s` (R35, column IRQ, R134), and of the rest no change but the
ones it may make. -/
structure InterruptFrame (s t : State) : Prop where
  cfg : t.cfg = s.cfg := by rfl
  mo : t.mo = s.mo := by rfl
  inuse : t.inuse = s.inuse := by rfl
  q : t.q = s.q := by rfl
  ie : t.ctrl.ie = s.ctrl.ie := by rfl
  ewarn : t.stat.ewarn = s.stat.ewarn := by rfl
  boff : t.stat.boff = s.stat.boff := by rfl
  irqEn : t.irqEn = s.irqEn := by rfl
  clkdiv : t.clkdiv = s.clkdiv := by rfl
  bt : t.bt = s.bt := by rfl
  xfer : t.xfer = s.xfer := by rfl
  inited : t.inited = s.inited := by rfl
  fg : t.fg = s.fg := by rfl
  ports : t.ports = s.ports := by rfl
  busTx : t.busTx = s.busTx := by rfl
  rxOut : t.rxOut = s.rxOut := by rfl
  txLost : t.txLost = s.txLost := by rfl
  refused : t.refused = s.refused := by rfl
  txSeq : t.txSeq = s.txSeq := by rfl
  draws : t.draws = s.draws := by rfl
  inputs : t.inputs = s.inputs := by rfl
  issuer : t.issuer = s.issuer := by rfl
  stall : t.faults.handshakeStall = s.faults.handshakeStall := by rfl
  overflow : s.faults.counterOverflow = true → t.faults.counterOverflow = true := by exact id
  status : t.intpnd.status = true → s.intpnd.status = true := by exact id
  init : t.ctrl.init = true → s.ctrl.init = true := by exact id
  err : t.stat.err = true → s.stat.err = true := by exact id
  rdy : ∀ k, s.rdyAt k = true → t.rdyAt k = true := by exact fun _ => id
  slot : ∀ k, t.slotPending k = true → s.slotPending k = true := by exact fun _ => id

/-- A consumed slot indication: no other is raised. -/
theorem slotPending_of_clear {s : State} {i k : Nat} (h : (s.setSlotPending i false).slotPending k = true) :
    s.slotPending k = true := by
  rw [State.slotPending_setSlotPending] at h
  split at h
  · cases h
  · exact h

theorem rdyAt_setRdy_of_rdyAt {s : State} (i : Nat) {k : Nat} (h : s.rdyAt k = true) :
    (s.setRdy i true).rdyAt k = true := by
  rw [State.rdyAt_setRdy, h, ite_self]

theorem irqRxEffect_frame (i : Nat) (s : State) : InterruptFrame s (irqRxEffect i s) := by
  unfold irqRxEffect
  split
  · exact { err := nofun, slot := fun _ => slotPending_of_clear (s := s) }
  · exact { rdy := fun _ => rdyAt_setRdy_of_rdyAt (s := s) i, slot := fun _ => slotPending_of_clear (s := s) }

theorem irqStatusEffect_frame (s : State) : InterruptFrame s (irqStatusEffect s) := by
  rcases irqStatusEffect_cases s with ⟨-, -, e⟩ | ⟨-, -, e⟩ | ⟨-, -, -, e⟩ | ⟨-, -, -, e⟩ | ⟨-, -, e⟩ <;> rw [e]
  · exact { overflow := fun _ => rfl }
  · exact { status := nofun, init := nofun }
  · exact { overflow := fun _ => rfl }
  · exact { status := nofun }
  · exact { status := nofun }

/-- The operations of class 2 are the interrupt context's (R55, R56). -/
theorem exec_irq_frame {i : Instr} {s t : State} (hi : opClassOf i.opcode = 2) (h : exec i s = .next t) :
    InterruptFrame s t := by
  unfold exec at h
  cases i with
  | irqRx k => exact State.slotEvent_keeps (InterruptFrame s) h {} fun _ _ => irqRxEffect_frame k s
  | irqStatus => exact State.event_keeps (InterruptFrame s) h {} fun _ => irqStatusEffect_frame s
  | _ => exact absurd hi (by simp only [Instr.opcode]; decide)

/-- Settles O57: the frame of the two operations of the interrupt class, clause by clause. -/
theorem interruptsWriteOnlyTheirState : Obligations.InterruptsWriteOnlyTheirState := by
  unfold Obligations.InterruptsWriteOnlyTheirState
  intro i s t hi ht
  have h := exec_irq_frame hi ht
  exact ⟨h.cfg, h.mo, h.inuse, h.q, h.ie, h.ewarn, h.boff, h.irqEn, h.clkdiv, h.bt, h.xfer, h.inited, h.fg, h.ports,
    h.busTx, h.rxOut, h.txLost, h.refused, h.txSeq, h.draws, h.inputs, h.issuer, h.stall, h.overflow, h.status, h.init,
    h.err, h.rdy, h.slot⟩

/-! ## The controller -/

/-- Values for the software's state (R35). -/
structure Software where
  inuse : List Bool
  rdy : List Bool
  sh : List Shadow
  q : Queue
  cnt : Counters
  irqEn : Bool
  inited : Bool
  fg : Fg

/-- `s` with those values. -/
def Software.over (w : Software) (s : State) : State :=
  s.withSoftware w.inuse w.rdy w.sh w.q w.cnt w.irqEn w.inited w.fg

/-- The outcome with its next state changed by `f`. -/
def mapNext (f : State → State) : Outcome → Outcome
  | .next t => .next (f t)
  | .fault r => .fault r
  | .refused r => .refused r

section
variable (w : Software) (s : State)

/-- An event that is as enabled as before, with an effect that leaves the overlay in place. -/
theorem event_over {b : Bool} {effect : State → State} (he : effect (w.over s) = w.over (effect s)) :
    (w.over s).event b effect = mapNext w.over (s.event b effect) := by
  cases b
  · rfl
  · simp only [State.event_true, mapNext, he]

theorem slotEvent_over {i n : Nat} {b : Bool} {effect : State → State} (he : effect (w.over s) = w.over (effect s)) :
    (w.over s).slotEvent i n b effect = mapNext w.over (s.slotEvent i n b effect) := by
  unfold State.slotEvent
  split
  · rfl
  · exact event_over w s he

theorem raiseStatus_over : (w.over s).raiseStatus = w.over s.raiseStatus := by
  rw [State.raiseStatus_eq, State.raiseStatus_eq]
  rfl

theorem raiseSlot_over (i : Nat) : (w.over s).raiseSlot i = w.over (s.raiseSlot i) := by
  rw [State.raiseSlot_eq, State.raiseSlot_eq]
  rfl

theorem xferDoneEffect_over : xferDoneEffect (w.over s) = w.over (xferDoneEffect s) := by
  cases him : s.xfer.image with
  | filter =>
    rw [xferDoneEffect_filter s him, xferDoneEffect_filter (w.over s) him]
    rfl
  | txframe =>
    rw [xferDoneEffect_txframe s him, xferDoneEffect_txframe (w.over s) him]
    rfl

theorem execEnvBusoff_over (lost : List Nat) (e : Bool) :
    execEnvBusoff lost e (w.over s) = mapNext w.over (execEnvBusoff lost e s) := by
  change (match s.badSlot lost with | some i => _ | none => _) = _
  unfold execEnvBusoff
  cases s.badSlot lost with
  | some i => rfl
  | none => exact event_over w s (raiseStatus_over w (busoffEffect lost e s))

theorem execEnvSilentHalt_over (lost : List Nat) (e : Bool) :
    execEnvSilentHalt lost e (w.over s) = mapNext w.over (execEnvSilentHalt lost e s) := by
  change (match s.badSlot lost with | some i => _ | none => _) = _
  unfold execEnvSilentHalt
  cases s.badSlot lost with
  | some i => rfl
  | none => exact event_over w s rfl

/-- Every event of the controller has the same outcome under the overlay. -/
theorem exec_over {i : Instr} (hi : opClassOf i.opcode = 3) : exec i (w.over s) = mapNext w.over (exec i s) := by
  cases i with
  | envXferDone => exact event_over w s (xferDoneEffect_over w s)
  | envRx i f =>
    refine slotEvent_over w s ?_
    exact raiseSlot_over w (s.setMo i ((s.moAt i).withFrame f)) i
  | envTxDone i => exact slotEvent_over w s rfl
  | envEwarnOn =>
    unfold exec execEnvEwarnOn
    refine event_over w s ?_
    exact raiseStatus_over w { s with stat := { s.stat with ewarn := true } }
  | envEwarnOff =>
    unfold exec execEnvEwarnOff
    exact event_over w s rfl
  | envBusoff lost e => exact execEnvBusoff_over w s lost e
  | envSilentHalt lost e => exact execEnvSilentHalt_over w s lost e
  | envRecovered =>
    unfold exec execEnvRecovered
    exact event_over w s rfl
  | envErrSet r =>
    unfold exec execEnvErrSet
    refine event_over w s ?_
    cases r
    · rfl
    · exact raiseStatus_over w { s with stat := { s.stat with err := true } }
  | _ => exact absurd hi (by simp only [Instr.opcode]; decide)

end

/-- Settles O58: each event's precondition reads none of the software's state, and its effect leaves it in place
(`exec_over`). -/
theorem controllerNeitherReadsNorWritesSoftwareState : Obligations.ControllerNeitherReadsNorWritesSoftwareState := by
  unfold Obligations.ControllerNeitherReadsNorWritesSoftwareState
  intro i s inuse rdy sh q cnt irqEn inited fg hi
  refine (exec_over ⟨inuse, rdy, sh, q, cnt, irqEn, inited, fg⟩ s hi).trans ?_
  cases exec i s <;> rfl

/-! ## The fault monitor -/

section
variable (s : State)

theorem State.fm_eq_busOff : s.fm = .busOff ↔ s.stat.boff = true := by
  unfold State.fm
  cases s.stat.boff <;> cases s.stat.ewarn <;> simp

theorem State.fm_eq_warning : s.fm = .warning ↔ s.stat.boff = false ∧ s.stat.ewarn = true := by
  unfold State.fm
  cases s.stat.boff <;> cases s.stat.ewarn <;> simp

theorem State.fm_eq_normal : s.fm = .normal ↔ s.stat.boff = false ∧ s.stat.ewarn = false := by
  unfold State.fm
  cases s.stat.boff <;> cases s.stat.ewarn <;> simp

@[simp] theorem State.raiseStatus_fm : s.raiseStatus.fm = s.fm := by
  rw [State.raiseStatus_eq]
  rfl

@[simp] theorem State.raiseSlot_fm (i : Nat) : (s.raiseSlot i).fm = s.fm := by
  rw [State.raiseSlot_eq]
  rfl

theorem xferDoneEffect_fm : (xferDoneEffect s).fm = s.fm := by
  cases him : s.xfer.image with
  | filter =>
    rw [xferDoneEffect_filter s him]
    rfl
  | txframe =>
    rw [xferDoneEffect_txframe s him]
    rfl

end

/-- The monitor's state is a function of two status bits (R31). -/
theorem State.fm_congr {s t : State} (hb : t.stat.boff = s.stat.boff) (he : t.stat.ewarn = s.stat.ewarn) :
    t.fm = s.fm := by
  simp only [State.fm, hb, he]

/-- What an operation can do to the monitor's state: nothing, a transition of R101's table, or RESET. -/
inductive MonitorMove (s t : State) : Instr → Prop where
  | stays {i : Instr} (h : t.fm = s.fm) : MonitorMove s t i
  | resets (h : t.fm = .normal) : MonitorMove s t .reset
  | warns (hs : s.fm = .normal) (ht : t.fm = .warning) : MonitorMove s t .envEwarnOn
  | fails {i : Instr} (lost : List Nat) (e : Bool) (hi : i = .envBusoff lost e ∨ i = .envSilentHalt lost e)
      (hs : s.fm ≠ .busOff) (ht : t.fm = .busOff) : MonitorMove s t i
  | calms (hs : s.fm = .warning) (ht : t.fm = .normal) : MonitorMove s t .envEwarnOff
  | recovers (hs : s.fm = .busOff) (ht : t.fm = .normal) : MonitorMove s t .envRecovered

/-- An event whose effect, where it is enabled, is one of those. -/
theorem MonitorMove.of_event {s t : State} {i : Instr} {b : Bool} {effect : State → State}
    (h : s.event b effect = .next t) (he : b = true → MonitorMove s (effect s) i) : MonitorMove s t i :=
  State.event_keeps (MonitorMove s · i) h (.stays rfl) he

theorem MonitorMove.of_slotEvent {s t : State} {i : Instr} {k n : Nat} {b : Bool} {effect : State → State}
    (h : s.slotEvent k n b effect = .next t) (he : (effect s).fm = s.fm) : MonitorMove s t i :=
  State.slotEvent_keeps (MonitorMove s · i) h (.stays rfl) fun _ _ => .stays he

/-- A controller that is on the bus is not bus-off. -/
theorem State.not_busOff_of_enabled {s : State} {lost : List Nat} (h : s.busoffEnabled lost = true) :
    s.fm ≠ .busOff := by
  have hbus : s.onBus = true := (Bool.and_eq_true_iff.1 h).1
  have hboff : s.stat.boff = false := (Bool.not_eq_true' _).mp (Bool.and_eq_true_iff.1 hbus).2
  rw [Ne, State.fm_eq_busOff, hboff]
  exact Bool.false_ne_true

theorem exec_monitorMove {i : Instr} {s t : State} (h : exec i s = .next t) : MonitorMove s t i := by
  by_cases hfg : opClassOf i.opcode ≤ 1
  · obtain ⟨r, rfl⟩ | hf := exec_frame hfg h
    · exact .stays rfl
    · exact .stays (State.fm_congr (congrArg Stat.boff hf.stat) (congrArg Stat.ewarn hf.stat))
  by_cases hirq : opClassOf i.opcode = 2
  · have hf := exec_irq_frame hirq h
    exact .stays (State.fm_congr hf.boff hf.ewarn)
  unfold exec at h
  cases i with
  | envXferDone => exact .of_event h fun _ => .stays (xferDoneEffect_fm s)
  | envRx => exact .of_slotEvent h (State.raiseSlot_fm _ _)
  | envTxDone => exact .of_slotEvent h rfl
  | envEwarnOn =>
    refine .of_event h fun hb => ?_
    simp only [Bool.and_eq_true, Bool.not_eq_true'] at hb
    obtain ⟨⟨-, hewarn⟩, hboff⟩ := hb
    refine .warns ((State.fm_eq_normal s).2 ⟨hboff, hewarn⟩) ?_
    exact (State.raiseStatus_fm _).trans ((State.fm_eq_warning _).2 ⟨hboff, rfl⟩)
  | envEwarnOff =>
    refine .of_event h fun hb => ?_
    simp only [Bool.and_eq_true, Bool.not_eq_true'] at hb
    obtain ⟨hewarn, hboff⟩ := hb
    exact .calms ((State.fm_eq_warning s).2 ⟨hboff, hewarn⟩) ((State.fm_eq_normal _).2 ⟨hboff, rfl⟩)
  | envBusoff lost e =>
    refine .of_event (execEnvBusoff_event h) fun hb => .fails lost e (.inl rfl) (State.not_busOff_of_enabled hb) ?_
    exact (State.raiseStatus_fm _).trans ((State.fm_eq_busOff _).2 rfl)
  | envSilentHalt lost e =>
    refine .of_event (execEnvSilentHalt_event h) fun hb => .fails lost e (.inr rfl) (State.not_busOff_of_enabled hb) ?_
    exact (State.fm_eq_busOff _).2 rfl
  | envRecovered =>
    refine .of_event h fun hb => ?_
    have hboff : s.stat.boff = true := (Bool.and_eq_true_iff.1 hb).1
    exact .recovers ((State.fm_eq_busOff s).2 hboff) ((State.fm_eq_normal _).2 ⟨rfl, rfl⟩)
  | envErrSet r =>
    refine .of_event h fun _ => .stays ?_
    cases r
    · rfl
    · exact State.raiseStatus_fm _
  | reset =>
    cases h
    exact .resets rfl
  | irqRx => exact absurd (by simp only [Instr.opcode]; decide) hirq
  | irqStatus => exact absurd (by simp only [Instr.opcode]; decide) hirq
  | _ => exact absurd (by simp only [Instr.opcode]; decide) hfg

/-- Settles O59: the monitor reads two status bits, the foreground's frame holds them, and every operation is inverted
once into its move on the monitor's state (`exec_monitorMove`). -/
theorem monitorStateFollowsTheStatus : Obligations.MonitorStateFollowsTheStatus := by
  unfold Obligations.MonitorStateFollowsTheStatus
  refine ⟨fun s => ⟨s.fm_eq_busOff, s.fm_eq_warning, s.fm_eq_normal⟩, fun s => ?_, fun i s t h => ?_⟩
  · have hstat := (fgStep_frame s).stat
    exact State.fm_congr (congrArg Stat.boff hstat) (congrArg Stat.ewarn hstat)
  cases exec_monitorMove h with
  | stays e => exact .inl e
  | resets e => exact .inr (.inl ⟨rfl, e⟩)
  | warns hs ht => exact .inr (.inr (.inl ⟨hs, ht, rfl⟩))
  | fails lost e hi hs ht => exact .inr (.inr (.inr (.inl ⟨hs, ht, lost, e, hi⟩)))
  | calms hs ht => exact .inr (.inr (.inr (.inr (.inl ⟨hs, ht, rfl⟩))))
  | recovers hs ht => exact .inr (.inr (.inr (.inr (.inr ⟨hs, ht, rfl⟩))))

end Sys2Proof.Machine
end

section
/-! How a step takes what the outside offers (spec/20_memory.md R49), the byte lanes of a payload (R39, R40), and the
stop on a slot that the block does not have (R42). -/

namespace Sys2Proof.Machine

/-! ## What a step runs -/

section
variable {s u : State} {i : Instr} {rest : List Input}

theorem step_of_fetch_run (h : fetch s = .run i u) : step s = exec i u := by
  simp only [step, h]

theorem step_of_fetch_advance (h : fetch s = .advance u) : step s = .next (fgStep u) := by
  simp only [step, h]

/-- The input that offers an operation makes the step that operation, issued from the foreground. -/
theorem step_of_inputFor (h : s.inputs = inputFor i :: rest) : step s = exec i (s.fetched rest .foreground) :=
  step_of_fetch_run (fetch_inputFor s i rest h)

/-- A command makes the step the operation that its code and ports ask for, issued from the command's context (R57). -/
theorem step_of_command {ctx : Context} {code : Byte} {o : OperandPorts} (h : s.inputs = .command ctx code o :: rest)
    (hc : commanded code o = some i) : step s = exec i (s.fetched rest ctx) :=
  step_of_fetch_run (by simp only [fetch, h, fetchCommand, hc])

theorem step_of_label (h : s.inputs = .label i :: rest) : step s = exec i (s.fetched rest .foreground) :=
  step_of_fetch_run (by simp only [fetch, h])

end

/-- A word of the opcode table that gives an operation decodes to it. -/
theorem decode_of_decodeTableWord {nbits w : Nat} {i : Instr} (h : decodeTableWord nbits w = some i) :
    ∃ more, decode (tableBytes nbits w) = .ok (i, more) := by
  unfold decodeTableWord at h
  split at h
  next r hr =>
    cases h
    exact ⟨r.2, hr⟩
  next => cases h

/-- Settles O5: bytes and table words offer their operation by `inputFor`, each host code asks for its operation with
the operands on the ports, and the other inputs are fetched as they stand. -/
theorem stepRunsTheDecodedOperation : Obligations.StepRunsTheDecodedOperation := by
  unfold Obligations.StepRunsTheDecodedOperation
  refine ⟨fun s bytes more rest i hin hd => ?bytes, fun s nbits w i hw => ?word, fun s ctx code o rest hin => ?command,
    fun s i rest hin => step_of_label hin, fun s rest hin => ?advance, fun s hin => ?nothing⟩
  case bytes => exact step_of_inputFor (inputOf_of_decode hd ▸ hin)
  case word =>
    obtain ⟨more, hd⟩ := decode_of_decodeTableWord hw
    exact step_of_inputFor (congrArg (· :: s.inputs) (inputOf_of_decode hd))
  case command => refine ⟨?_, ?_, ?_, ?_, ?_, ?_⟩ <;> rintro rfl <;> exact step_of_command hin rfl
  case advance => exact step_of_fetch_advance (by simp only [fetch, hin, State.fetched])
  case nothing => exact step_of_fetch_advance (by simp only [fetch, hin])

/-! ## Byte lanes -/

/-- Settles O6: `pack` is R39's formula, and the two lanes of a packed word are its two bytes (`evenByte_packWord`,
`oddByte_packWord`). -/
theorem packingPlacesBytesLittleEndian : Obligations.PackingPlacesBytesLittleEndian := by
  unfold Obligations.PackingPlacesBytesLittleEndian
  intro p
  exact ⟨rfl, rfl, rfl, rfl, evenByte_packWord _ _, oddByte_packWord _ _, evenByte_packWord _ _, oddByte_packWord _ _,
    evenByte_packWord _ _, oddByte_packWord _ _, evenByte_packWord _ _, oddByte_packWord _ _⟩

@[simp] theorem unpack_pack (p : Payload) : unpack (pack p) = p := by
  simp only [unpack, pack, evenByte_packWord, oddByte_packWord]

@[simp] theorem pack_unpack (w : DataWords) : pack (unpack w) = w := by
  simp only [unpack, pack, packWord_bytes]

/-- Settles O7: word by word, the two bytes of a packed word are its own, and a word is packed from its two bytes. -/
theorem unpackingInvertsPacking : Obligations.UnpackingInvertsPacking := by
  unfold Obligations.UnpackingInvertsPacking
  exact ⟨fun _ => rfl, unpack_pack, pack_unpack⟩

/-! ## Slots that the block does not have -/

section
variable {s : State} {i : Nat}

theorem State.slotEvent_of_le {n : Nat} {b : Bool} {effect : State → State} (h : n ≤ i) :
    s.slotEvent i n b effect = .fault (.noSuchSlot i) := if_pos h

theorem execXferWait_of_le {image : XferImage} (h : s.cfg.N ≤ i) : execXferWait i image s = .fault (.noSuchSlot i) :=
  if_pos h

theorem execEnvBusoff_of_badSlot {lost : List Nat} {e : Bool} (h : s.badSlot lost = some i) :
    execEnvBusoff lost e s = .fault (.noSuchSlot i) := by
  simp only [execEnvBusoff, h]

theorem execEnvSilentHalt_of_badSlot {lost : List Nat} {e : Bool} (h : s.badSlot lost = some i) :
    execEnvSilentHalt lost e s = .fault (.noSuchSlot i) := by
  simp only [execEnvSilentHalt, h]

end

/-- Settles O48: each operation that names a slot tests it against its index space first, and a set stops on the slot
that `badSlot` finds in it (`State.badSlot_some`). -/
theorem labelsOutsideTheSlotSpaceStop : Obligations.LabelsOutsideTheSlotSpaceStop := by
  unfold Obligations.LabelsOutsideTheSlotSpaceStop
  refine fun s => ⟨fun i hi => State.slotEvent_of_le hi, fun i hi => ?_, fun lost e hbad => ?_⟩
  · exact ⟨fun f => State.slotEvent_of_le hi, State.slotEvent_of_le hi, fun image => execXferWait_of_le hi⟩
  · obtain ⟨k, hk, hn, hb⟩ := s.badSlot_some lost hbad
    exact ⟨k, hk, hn, execEnvBusoff_of_badSlot hb, execEnvSilentHalt_of_badSlot hb⟩

end Sys2Proof.Machine
end

section
/-! The serial form of every operation (spec/30_encoding.md R56 to R64), the codes that the host command port refuses
(R68), and the packed views of frames, registers, shadow entries and images (R58, R60, R62, R64 to R66). -/

namespace Sys2Proof

/-! ## Decoding what was encoded -/

/-- The slots of a checked set, and their number, fit the two bytes that the serial form has for each (R63). -/
theorem lostOk_fits {p : Params} {lost : List Nat} (h : lostOk p lost = true) :
    (∀ i ∈ lost, i < 65536) ∧ lost.length < 65536 := by
  simp only [lostOk, Bool.and_eq_true, List.all_eq_true, decide_eq_true_eq] at h
  obtain ⟨⟨-, hslots⟩, hlen⟩ := h
  exact ⟨fun i hi => (hslots i hi).2, hlen⟩

/-- Each operation code selects the readers of what its operation writes: an operation without operands is read from
its code alone, and the readers of the others give back the operands, a slot index and an opaque word because their
checks keep them within the serial form (log 5). -/
theorem decodeOperands_operands {p : Params} {i : Instr} (h : i.wellFormed p = true) (rest : List Byte) :
    decodeOperands i.opcode (i.operands ++ rest) = .ok (i, rest) := by
  cases i <;>
    simp only [Instr.opcode, Instr.operands, decodeOperands, BitVec.reduceToNat, List.append_assoc, List.nil_append] <;>
    simp only [Instr.wellFormed, Bool.and_eq_true, decide_eq_true_eq] at h
  case init b => rw [readBaud_writeBaud b h.1 h.2, thenRead_ok]
  case registerFilter | reserveReceiveSlot => rw [readFilter_writeFilter, thenRead_ok]
  case send | trySend | enqueue => rw [readFrame_writeFrame, thenRead_ok]
  case xferWait target image => rw [readSlot_writeSlot target h.2, thenRead_ok, readImage_writeImage, thenRead_ok]
  case irqRx k => rw [readRxIndication_writeSlot k h.2, thenRead_ok]
  case envRx k f => rw [readSlot_writeSlot k h.2, thenRead_ok, readFrame_writeFrame, thenRead_ok]
  case envTxDone k => rw [readSlot_writeSlot k h.2, thenRead_ok]
  case envBusoff lost e | envSilentHalt lost e =>
    obtain ⟨hslots, hlen⟩ := lostOk_fits h
    rw [readLost_writeLost lost e hslots hlen, thenRead_ok]
  case envErrSet => rw [readFlag_writeFlag, thenRead_ok]

/-- Settles O2: the decoder takes the code byte, which stands first, and reads the operands behind it
(`decodeOperands_operands`). -/
theorem decodeInvertsEncode : Obligations.DecodeInvertsEncode := by
  unfold Obligations.DecodeInvertsEncode
  exact fun p i rest h => decodeOperands_operands h rest

/-- Settles O1: the eight byte sequences are closed, and the decoder evaluates on each. -/
theorem decodeReadsSampleWords : Obligations.DecodeReadsSampleWords := by
  unfold Obligations.DecodeReadsSampleWords
  decide

/-! ## The frame record -/

theorem leValue_writeFlag (b : Bool) : leValue (writeFlag b) = b.toNat := by cases b <;> rfl

/-- Payload byte `k` stands at bit `8 * k` (R58). -/
theorem leValue_writePayload (p : Payload) (rest : List Byte) :
    leValue (writePayload p ++ rest) =
      p.b0.toNat + 2 ^ 8 * p.b1.toNat + 2 ^ 16 * p.b2.toNat + 2 ^ 24 * p.b3.toNat + 2 ^ 32 * p.b4.toNat +
        2 ^ 40 * p.b5.toNat + 2 ^ 48 * p.b6.toNat + 2 ^ 56 * p.b7.toNat + 2 ^ 64 * leValue rest := by
  simp only [writePayload, List.cons_append, List.nil_append, leValue]
  omega

/-- Settles O3: the record is the identifier, the payload, the length byte and the flag byte, one behind the other; a
record read in goes through the same three readers. -/
theorem frameRecordFieldsStandWhereStated : Obligations.FrameRecordFieldsStandWhereStated := by
  unfold Obligations.FrameRecordFieldsStandWhereStated
  refine fun f => ⟨?value, fun tag rest => ?read⟩
  case value =>
    simp only [frameRecord, writeFrame, List.append_assoc, leValue_writeWord, leValue_writePayload, List.cons_append,
      List.nil_append, leValue, leValue_writeFlag]
    omega
  case read =>
    simp only [readFrame, List.append_assoc, readWord_writeWord, readPayload_writePayload, thenRead_ok, readLenExt,
      List.cons_append, List.nil_append]

end Sys2Proof

namespace Sys2Proof.Machine

/-! ## The packed views -/

/-- `INIT` at bit 0, `IE` at bit 1 (R66). -/
theorem ctrlWord_getLsbD (c : Ctrl) (k : Nat) :
    (ctrlWord c).getLsbD k = (decide (k = 0) && c.init || decide (k = 1) && c.ie) := by
  have hword : ctrlWord c = ((0#30).concat c.ie).concat c.init := rfl
  rw [hword]
  match k with
  | 0 | 1 | k + 2 => simp

/-- `ERR`, `EWARN` and `BOFF` at bits 0 to 2 (R66). -/
theorem statWord_getLsbD (t : Stat) (k : Nat) :
    (statWord t).getLsbD k = (decide (k = 0) && t.err || decide (k = 1) && t.ewarn || decide (k = 2) && t.boff) := by
  have hword : statWord t = (((0#29).concat t.boff).concat t.ewarn).concat t.err := rfl
  rw [hword]
  match k with
  | 0 | 1 | 2 | k + 3 => simp

/-- Bit `k` is slot `k`'s (R66). -/
theorem slotBits_testBit (slots : List Bool) (k : Nat) : (slotBits slots).testBit k = slots.getD k false := by
  induction slots generalizing k with
  | nil => simp [slotBits]
  | cons b rest ih =>
    cases k with
    | zero => cases b <;> simp [slotBits, Nat.testBit_zero]
    | succ k =>
      have hb : (b.toNat + 2 * slotBits rest) / 2 = slotBits rest := by
        have := b.toNat_lt
        omega
      rw [slotBits, Nat.testBit_succ, hb, ih, List.getD_cons_succ]

/-- An indication code by its value: bit 15 is set from `2 ^ 15` on, and bits 14 to 0 are the remainder (R62). -/
theorem indicated_eq (ind : Half) : indicated ind =
    if 2 ^ 15 ≤ ind.toNat then (if ind.toNat = 2 ^ 15 then some .irqStatus else none) else some (.irqRx ind.toNat) := by
  have hlt := ind.isLt
  have hbit : ind.getLsbD 15 = decide (2 ^ 15 ≤ ind.toNat) := BitVec.msb_eq_decide ind
  have hlow : (ind.extractLsb' 0 15).toNat = ind.toNat % 2 ^ 15 := by
    rw [BitVec.extractLsb'_toNat, Nat.shiftRight_zero]
  simp only [indicated, hbit, decide_eq_true_eq, ← BitVec.toNat_inj, hlow]
  by_cases h : 2 ^ 15 ≤ ind.toNat
  · have hz : ind.toNat % 2 ^ 15 = (0#15).toNat ↔ ind.toNat = 2 ^ 15 := by
      simp only [BitVec.toNat_ofNat]
      omega
    simp only [if_pos h, hz]
  · simp only [if_neg h, Nat.mod_eq_of_lt (Nat.lt_of_not_le h)]

/-- A shadow entry's fields at the bits of R65. -/
theorem shadowBits_toNat (e : Shadow) : (shadowBits e).toNat =
    e.id.toNat + 2 ^ 32 * e.dlc.toNat + 2 ^ 36 * e.ext.toNat + 2 ^ 48 * e.w.w0.toNat + 2 ^ 64 * e.w.w1.toNat +
      2 ^ 80 * e.w.w2.toNat + 2 ^ 96 * e.w.w3.toNat := by
  simp only [shadowBits, toNat_append, BitVec.toNat_ofBool, BitVec.toNat_ofNat]
  omega

theorem imageHead_toNat (kind : BitVec 2) (xtd : Bool) (id : Ident) :
    (imageHead kind xtd id).toNat = id.toNat + 2 ^ 29 * xtd.toNat + 2 ^ 30 * kind.toNat := by
  simp only [imageHead, toNat_append, BitVec.toNat_ofBool]
  omega

theorem leValue_writeDataWords (w : DataWords) : leValue (writeDataWords w) =
    w.w0.toNat + 2 ^ 16 * w.w1.toNat + 2 ^ 32 * w.w2.toNat + 2 ^ 48 * w.w3.toNat := by
  have last := leValue_writeHalf w.w3 []
  simp only [List.append_nil, leValue] at last
  simp only [writeDataWords, List.append_assoc, leValue_writeHalf, last]
  omega

/-- A filter image's fields at the bits of R64; the fields that its kind fixes are zero. -/
theorem imageBits_filter (id mask : Ident) (xtd : Bool) :
    imageBits (.filter id mask xtd) = id.toNat + 2 ^ 29 * xtd.toNat + 2 ^ 32 * mask.toNat := by
  simp only [imageBits, writeImage, List.append_assoc, leValue_writeWord, leValue_writeHalf, leValue_writeDataWords,
    imageHead_toNat, toNat_append, BitVec.toNat_ofNat]
  omega

/-- A transmit image's fields at the bits of R64; `dir`, `kind`, `txrqst` and `eob` are one. -/
theorem imageBits_txframe (id : Ident) (xtd : Bool) (dlc : Dlc) (w : DataWords) :
    imageBits (.txframe id xtd dlc w) =
      id.toNat + 2 ^ 29 * xtd.toNat + 2 ^ 30 + 2 ^ 31 + 2 ^ 64 * dlc.toNat + 2 ^ 68 + 2 ^ 69 + 2 ^ 80 * w.w0.toNat +
        2 ^ 96 * w.w1.toNat + 2 ^ 112 * w.w2.toNat + 2 ^ 128 * w.w3.toNat := by
  simp only [imageBits, writeImage, List.append_assoc, leValue_writeWord, leValue_writeHalf, leValue_writeDataWords,
    imageHead_toNat, toNat_append, BitVec.toNat_ofNat]
  omega

/-- Settles O60: each view has its lemma above, and the result codes are numbered by definition. -/
theorem packedViewsAreAsStated : Obligations.PackedViewsAreAsStated := by
  unfold Obligations.PackedViewsAreAsStated
  exact ⟨ctrlWord_getLsbD, statWord_getLsbD, slotBits_testBit, ⟨rfl, rfl, rfl, rfl, rfl⟩, indicated_eq, shadowBits_toNat,
    imageBits_filter, imageBits_txframe⟩

/-! ## The host command port -/

/-- A command whose code and ports ask for nothing makes the step a refusal (R68). -/
theorem step_of_illegal {s : State} {ctx : Context} {code : Byte} {o : OperandPorts} {rest : List Input}
    (h : s.inputs = .command ctx code o :: rest) (hc : commanded code o = none) :
    step s = .next ((s.fetched rest ctx).raiseRefuse .illegalOp) := by
  simp only [step, fetch, h, fetchCommand, hc]

/-- Settles O4: a code outside 1 to 6 asks for no operation, so the step is the refusal alone. -/
theorem commandPortRefusesOtherCodes : Obligations.CommandPortRefusesOtherCodes := by
  unfold Obligations.CommandPortRefusesOtherCodes
  exact fun s ctx code o rest hin hcode => step_of_illegal hin (commanded_eq_none code o hcode)

end Sys2Proof.Machine
end

section
/-! INIT, the transfer handshake and the reservation of a receive slot (spec/40_init_and_filter.md R73 to R78): the scan,
the wait step at each of its positions, and each operation run to its end. -/

namespace Sys2Proof.Machine

/-! ## The scan of the receive region -/

/-- The first micro-step that RESERVE_RECEIVE_SLOT and REGISTER_FILTER share (R75 step 1, R77 step 1). -/
def State.scanRx (s : State) (found : Nat → Fg) : State :=
  match s.freeRxSlot with
  | none => s.ret .noFreeSlot
  | some i => s.goto (found i)

theorem State.scanRx_of_full {s : State} (h : s.freeRxSlot = none) (found : Nat → Fg) :
    s.scanRx found = s.ret .noFreeSlot := by
  simp only [State.scanRx, h]

theorem State.scanRx_of_free {s : State} {i : Nat} (h : s.freeRxSlot = some i) (found : Nat → Fg) :
    s.scanRx found = s.goto (found i) := by
  simp only [State.scanRx, h]

section
variable {s : State} {mask value : Word} {extended : Bool}

/-- With a fitting value and the preconditions of R123, REGISTER_FILTER begins with the scan. -/
theorem exec_registerFilter (h : s.ready) (hv : fitsIdent value extended = true) :
    exec (.registerFilter mask value extended) s =
      .next (s.begin.scanRx fun i => .filter2 i mask value extended) := by
  obtain ⟨hf, hi⟩ := h
  have hpre : s.needsInit.or (filterRefusal value extended) = none :=
    Option.or_eq_none_iff.2 ⟨s.needsInit_of_inited hi, (filterRefusal_eq_none value extended).2 hv⟩
  simp only [exec, execRegisterFilter, hpre]
  exact s.issue_of_free _ hf

/-- With a fitting value RESERVE_RECEIVE_SLOT begins with the scan. -/
theorem exec_reserveReceiveSlot (h : s.free) (hv : fitsIdent value extended = true) :
    exec (.reserveReceiveSlot mask value extended) s =
      .next (s.begin.scanRx fun i => .reserve2 i mask value extended) := by
  simp only [exec, execReserveReceiveSlot, (filterRefusal_eq_none value extended).2 hv]
  exact s.issue_of_free _ h

end

/-- Settles O12: the scan of a full receive region returns at once. -/
theorem reservationFailsWhenAllInUse : Obligations.ReservationFailsWhenAllInUse := by
  unfold Obligations.ReservationFailsWhenAllInUse
  intro mask value extended s hv hall
  have hfit : fitsIdent value extended = true := (fitsIdent_iff value extended).2 hv
  have hnone : s.begin.freeRxSlot = none := s.freeRxSlot_eq_none.2 hall
  refine ⟨fun hr => ?_, fun hf => ?_⟩
  · rw [exec_registerFilter hr hfit, State.scanRx_of_full hnone]
    rfl
  · rw [exec_reserveReceiveSlot hf hfit, State.scanRx_of_full hnone]
    rfl

/-! ## The wait step -/

section
variable {s : State} {seen c : Nat} {again : Nat → Fg} {done : State → State} (hb : s.xfer.busy = true)
include hb

/-- Without a ceiling a busy read holds the foreground (R125). -/
theorem State.waitXfer_holds (hc : s.cfg.ceiling = none) : s.waitXfer seen again done = s := by
  simp only [State.waitXfer, hb, hc, if_true]

/-- A busy read short of the ceiling is counted (R74). -/
theorem State.waitXfer_counts (hc : s.cfg.ceiling = some c) (hlt : seen + 1 < c) :
    s.waitXfer seen again done = s.goto (again (seen + 1)) := by
  simp only [State.waitXfer, hb, hc, if_true, if_neg (Nat.not_le.2 hlt)]

/-- The busy read that reaches the ceiling stalls (R124). -/
theorem State.waitXfer_stalls (hc : s.cfg.ceiling = some c) (hle : c ≤ seen + 1) :
    s.waitXfer seen again done = s.raiseHandshakeStall := by
  simp only [State.waitXfer, hb, hc, if_true, if_pos hle]

end

/-! ### The four positions that wait -/

section
variable {s : State} {i seen : Nat} {f : Frame} {c : Caller}

theorem fgStep_xferWait (h : s.fg = .xferWait seen) :
    fgStep s = s.waitXfer seen .xferWait fun s => s.ret .ok := by
  simp only [fgStep, h, microXferWait]

theorem fgStep_filter4 (h : s.fg = .filter4 i seen) :
    fgStep s = s.waitXfer seen (.filter4 i) fun s => s.goto (.filter5 i) := by
  simp only [fgStep, h, microFilter4]

theorem fgStep_reserve3 (h : s.fg = .reserve3 i seen) :
    fgStep s = s.waitXfer seen (.reserve3 i) fun s => s.goto (.reserve4 i) := by
  simp only [fgStep, h, microReserve3]

theorem fgStep_trySend3 (h : s.fg = .trySend3 f seen c) :
    fgStep s = s.waitXfer seen (fun n => .trySend3 f n c) fun s => s.goto (.trySend4 f c) := by
  simp only [fgStep, h, microTrySend3]

end

/-- Where the foreground waits, its micro-step is a wait step. -/
theorem fgStep_of_waiting {s : State} (h : s.waiting = true) :
    ∃ seen again done, fgStep s = s.waitXfer seen again done := by
  cases hfg : s.fg with
  | xferWait => exact ⟨_, _, _, fgStep_xferWait hfg⟩
  | filter4 => exact ⟨_, _, _, fgStep_filter4 hfg⟩
  | reserve3 => exact ⟨_, _, _, fgStep_reserve3 hfg⟩
  | trySend3 => exact ⟨_, _, _, fgStep_trySend3 hfg⟩
  | _ => simp [State.waiting, hfg] at h

/-- Without a ceiling a foreground that waits for a pending transfer has no step. -/
theorem fgStep_holds {s : State} (hw : s.waiting = true) (hb : s.xfer.busy = true) (hc : s.cfg.ceiling = none) :
    fgStep s = s := by
  obtain ⟨seen, again, done, h⟩ := fgStep_of_waiting hw
  rw [h, State.waitXfer_holds hb hc]

/-- A foreground that has no step takes none. -/
theorem runFg_of_fixed {s : State} (h : fgStep s = s) (k : Nat) : runFg k s = s := by
  induction k with
  | zero => rfl
  | succ k ih => rw [runFg_succ, h, ih]

/-- Settles O14: each of the four positions takes the wait step, which a busy read makes hold, count or stall. -/
theorem waitHoldsOrStalls : Obligations.WaitHoldsOrStalls := by
  unfold Obligations.WaitHoldsOrStalls
  intro s hw hb
  refine ⟨fgStep_holds hw hb, fun c seen hc => ⟨fun hat hle => ?_, fun hlt => ⟨fun hfg => ?_, fun i hfg => ?_,
    fun i hfg => ?_, fun f k hfg => ?_⟩⟩⟩
  · have hstall : fgStep s = s.raiseHandshakeStall := by
      obtain hfg | ⟨i, hfg⟩ | ⟨i, hfg⟩ | ⟨f, k, hfg⟩ := hat
      · rw [fgStep_xferWait hfg, State.waitXfer_stalls hb hc hle]
      · rw [fgStep_filter4 hfg, State.waitXfer_stalls hb hc hle]
      · rw [fgStep_reserve3 hfg, State.waitXfer_stalls hb hc hle]
      · rw [fgStep_trySend3 hfg, State.waitXfer_stalls hb hc hle]
    rw [hstall]
    exact ⟨rfl, runFg_of_fixed rfl⟩
  · exact (fgStep_xferWait hfg).trans (State.waitXfer_counts hb hc hlt)
  · exact (fgStep_filter4 hfg).trans (State.waitXfer_counts hb hc hlt)
  · exact (fgStep_reserve3 hfg).trans (State.waitXfer_counts hb hc hlt)
  · exact (fgStep_trySend3 hfg).trans (State.waitXfer_counts hb hc hlt)

/-! ## A handshake with a prompt controller -/

/-- Running the prompt schedule on for a sum of steps is running it on twice. -/
theorem runPrompt_add (a b : Nat) (s : State) : runPrompt (a + b) s = runPrompt b (runPrompt a s) := by
  induction a generalizing s with
  | zero => simp
  | succ a ih => rw [Nat.succ_add, runPrompt_succ, runPrompt_succ, ih]

theorem xferDoneEffect_busy (s : State) : (xferDoneEffect s).xfer.busy = false := by
  cases h : s.xfer.image with
  | filter => rw [xferDoneEffect_filter s h]
  | txframe => rw [xferDoneEffect_txframe s h]

theorem xferDoneEffect_fg (s : State) : (xferDoneEffect s).fg = s.fg := by
  cases h : s.xfer.image with
  | filter => rw [xferDoneEffect_filter s h]
  | txframe => rw [xferDoneEffect_txframe s h]

/-- The controller completes a transfer that is waited for, and the wait ends (R74, R105). -/
theorem runPrompt_wait {s : State} {seen : Nat} {again : Nat → Fg} {done : State → State} (hw : s.waiting = true)
    (hb : s.xfer.busy = true) (hstep : ∀ {u : State}, u.fg = s.fg → fgStep u = u.waitXfer seen again done) :
    runPrompt 2 s = done (xferDoneEffect s) := by
  have hfree := xferDoneEffect_busy s
  calc runPrompt 2 s
    _ = promptStep (promptStep s) := rfl
    _ = fgStep (xferDoneEffect s) := by rw [promptStep_of_waiting s hw hb, promptStep_of_not_busy _ hfree]
    _ = done (xferDoneEffect s) := by rw [hstep (xferDoneEffect_fg s), State.waitXfer_of_not_busy _ _ _ _ hfree]

/-! ## REGISTER_FILTER and RESERVE_RECEIVE_SLOT -/

/-- Settles O10: the issue finds the port free (`State.issueXfer_of_not_busy`), the wait ends with the transfer complete
(`runPrompt_wait`), and the steps before and after write what they name. -/
theorem registerFilterProgramsLeastFreeSlot : Obligations.RegisterFilterProgramsLeastFreeSlot := by
  unfold Obligations.RegisterFilterProgramsLeastFreeSlot
  intro mask value extended s i hr hb hv hi
  have hscan : s.begin.freeRxSlot = some i := (s.freeRxSlot_eq_some i).2 hi
  have hissue : runPrompt 2 (s.begin.goto (.filter2 i mask value extended)) = { s.begin with
      irqEn := false, xfer := ⟨true, i, filterImage mask value extended⟩, fg := .filter4 i 0 } :=
    State.issueXfer_of_not_busy _ i _ _ hb
  refine ⟨s.begin.goto (.filter2 i mask value extended), ?_, rfl, ?_, ?_⟩
  · rw [exec_registerFilter hr ((fitsIdent_iff value extended).2 hv), State.scanRx_of_free hscan]
  · rw [hissue]
    rfl
  · rw [runPrompt_add 2 5, hissue, runPrompt_add 2 3, runPrompt_wait rfl rfl fgStep_filter4,
      xferDoneEffect_filter _ rfl]
    rfl

/-- Settles O11: as for REGISTER_FILTER, with no gate to close and the index on the result port. -/
theorem reserveReceiveSlotReturnsLeastFreeSlot : Obligations.ReserveReceiveSlotReturnsLeastFreeSlot := by
  unfold Obligations.ReserveReceiveSlotReturnsLeastFreeSlot
  intro mask value extended s i hf hb hv hi
  have hscan : s.begin.freeRxSlot = some i := (s.freeRxSlot_eq_some i).2 hi
  have hissue : runPrompt 1 (s.begin.goto (.reserve2 i mask value extended)) = { s.begin with
      xfer := ⟨true, i, filterImage mask value extended⟩, fg := .reserve3 i 0 } :=
    State.issueXfer_of_not_busy _ i _ _ hb
  refine ⟨s.begin.goto (.reserve2 i mask value extended), ?_, ?_⟩
  · rw [exec_reserveReceiveSlot hf ((fitsIdent_iff value extended).2 hv), State.scanRx_of_free hscan]
  · rw [runPrompt_add 1 3, hissue, runPrompt_add 2 1, runPrompt_wait rfl rfl fgStep_reserve3,
      xferDoneEffect_filter _ rfl]
    rfl

/-! ## XFER_WAIT issued as itself -/

section
variable {s : State} {i : Nat} {image : XferImage}

/-- With the operands a caller gives it, it takes the issue step. -/
theorem exec_xferWait_of_allowed (hf : s.free) (hb : s.xfer.busy = false) (hi : i < s.cfg.N)
    (ha : s.xferAllowed i image = true) : exec (.xferWait i image) s =
      .next { s.begin with xfer := ⟨true, i, image⟩, fg := xferWaitPosition i image } := by
  simp only [exec, execXferWait, if_neg (Nat.not_le.2 hi), if_pos ha, s.issue_of_free _ hf,
    s.begin.issueXfer_of_not_busy i image _ hb]

/-- With any others it has none. -/
theorem exec_xferWait_of_not_allowed (hi : i < s.cfg.N) (ha : ¬ s.xferAllowed i image = true) :
    exec (.xferWait i image) s = .next s := by
  simp only [exec, execXferWait, if_neg (Nat.not_le.2 hi), if_neg ha]

end

/-- Settles O13: the issue step leaves the foreground at the wait of the image's kind, whose end is the caller's. -/
theorem xferWaitStagesAndEnds : Obligations.XferWaitStagesAndEnds := by
  unfold Obligations.XferWaitStagesAndEnds
  refine ⟨fun target image s hf hb hi him hrx htx => ?_, fun target image s hi hn => ?_⟩
  · have hexec := exec_xferWait_of_allowed hf hb hi ((s.xferAllowed_iff target image).2 ⟨him, hrx, htx⟩)
    refine ⟨_, hexec, rfl, ?_⟩
    cases image with
    | filter =>
      refine ⟨nofun, fun _ => ⟨rfl, (runPrompt_wait rfl rfl fgStep_reserve3).trans rfl, ?_⟩, fun hc => ?_⟩
      · rw [runPrompt_add 2 1, runPrompt_wait rfl rfl fgStep_reserve3]
        rfl
      · exact runFg_of_fixed (fgStep_holds rfl rfl hc)
    | txframe =>
      refine ⟨fun _ => ⟨rfl, (runPrompt_wait rfl rfl fgStep_xferWait).trans rfl⟩, nofun, fun hc => ?_⟩
      exact runFg_of_fixed (fgStep_holds rfl rfl hc)
  · exact exec_xferWait_of_not_allowed hi fun ha => hn ((s.xferAllowed_iff target image).1 ha)

/-! ## INIT -/

/-- Without the controller's sources no IRQ step is enabled (R128). -/
theorem State.irqPossible_of_sources_disabled {s : State} (h : s.ctrl.ie = false) : s.irqPossible = false := by
  simp [State.irqPossible, State.irqStatusEnabled, State.irqRxEnabled, State.irqGate, h]

/-- Before INIT has completed it begins by halting the controller; afterwards it is refused (R73). -/
theorem exec_init {s : State} (hf : s.free) (b : Baud) : exec (.init b) s =
    .next (if s.inited then s.raiseRefuse .initTwice else (s.begin.setHalt true).goto (.init2 b)) := by
  simp only [exec, execInit]
  split
  · rw [s.issue_refused _ _ hf]
  · rw [s.issue_of_free _ hf]

/-- Settles O9: the micro-steps run one by one from the first, and none before step 5 writes the enable. -/
theorem initWritesInOrderAndCompletes : Obligations.InitWritesInOrderAndCompletes := by
  unfold Obligations.InitWritesInOrderAndCompletes
  refine ⟨fun b s hf hi => ?_, fun b s hf hi => ?_⟩
  · rw [exec_init hf, if_pos hi]
    rfl
  · have h4 : runFg 4 ((s.begin.setHalt true).goto (.init2 b)) = { s.begin with
        ctrl := { init := false, ie := true }, clkdiv := b.clkdiv, bt := b.bt, fg := .init6 } := by
      simp [runFg_succ, fgStep, microInit2, microInit3, microInit4, microInit5, State.setHalt]
    refine ⟨(s.begin.setHalt true).goto (.init2 b), ?_, fun hie k hk => ?_, rfl, rfl, rfl, rfl, h4, ?_⟩
    · rw [exec_init hf, if_neg (ne_true_of_eq_false hi)]
    · refine State.irqPossible_of_sources_disabled ?_
      interval_cases k <;> exact hie
    · rw [runFg_add 4 1, h4]
      rfl

end Sys2Proof.Machine
end

section
/-! The order of the receive slots (spec/40_init_and_filter.md R75, R76, spec/70_reset_and_hazards.md R160) from one step
to the next: the slot that a reservation has in hand, the moves of the foreground, and the controller's writes. -/

namespace Sys2Proof.Machine

/-! ## The slot a reservation has in hand -/

/-- The receive slot that the operation at a position is reserving, from its scan to its mark (R75, R77). -/
def Fg.reservation : Fg → Option Nat
  | .filter2 i _ _ _ => some i
  | .filter3 i _ _ _ => some i
  | .filter4 i _ => some i
  | .filter5 i => some i
  | .reserve2 i _ _ _ => some i
  | .reserve3 i _ => some i
  | .reserve4 i => some i
  | _ => none

/-- The order invariant, with its clause on the position read off the slot in hand. -/
theorem orderInv_iff (s : State) :
    OrderInv s ↔ (∀ i, s.inuseAt i = true → s.usedBelow i) ∧ (∀ i, s.fg.reservation = some i → s.usedBelow i) ∧
      (∀ i, (s.moAt i).armed = true → s.inuseAt i = true ∨ s.reservingSlot i) ∧
      (s.xfer.busy = true → s.xfer.image.kind = .filter →
        (s.moAt s.xfer.target).armed = false ∧ s.reservingSlot s.xfer.target) := by
  constructor
  · rintro ⟨hpre, hres, harm, htr⟩
    refine ⟨hpre, fun i hi => ?_, harm, htr⟩
    cases hfg : s.fg <;> simp [hfg, Fg.reservation] at hi hres <;> exact hi ▸ hres
  · rintro ⟨hpre, hres, harm, htr⟩
    refine ⟨hpre, ?_, harm, htr⟩
    cases hfg : s.fg <;> simp [hfg, Fg.reservation] at hres ⊢ <;> exact hres

section
variable {s : State} (h : OrderInv s)
include h

/-- Below the slot in hand every slot is in use (R75 corner case (b)). -/
theorem OrderInv.usedBelow {p : Fg} (hfg : s.fg = p) {i : Nat} (hp : p.reservation = some i) : s.usedBelow i := by
  obtain ⟨-, hhand, -, -⟩ := (orderInv_iff s).1 h
  exact hhand i (hfg ▸ hp)

/-- The invariant reads the armed bits, the in-use flags, the transfer port and the position, and nothing else. -/
theorem OrderInv.congr {t : State} (ha : ∀ i, (t.moAt i).armed = (s.moAt i).armed) (hu : t.inuse = s.inuse)
    (hx : t.xfer = s.xfer) (hfg : t.fg = s.fg) : OrderInv t := by
  rw [orderInv_iff] at h ⊢
  simpa only [State.usedBelow, State.inuseAt, State.reservingSlot, ha, hu, hx, hfg] using h

/-! ## Moves of the foreground -/

/-- A move keeps the invariant where the slot in hand is the next one and no issued reservation is dropped. -/
theorem OrderInv.moves {p₀ p : Fg} (hfg : s.fg = p₀) (hhand : ∀ i, p.reservation = some i → s.usedBelow i)
    (hkeep : ∀ i, (s.goto p₀).reservingSlot i → (s.goto p).reservingSlot i) : OrderInv (s.goto p) := by
  subst hfg
  obtain ⟨hpre, -, harm, htr⟩ := (orderInv_iff s).1 h
  refine (orderInv_iff _).2 ⟨hpre, hhand, fun i hi => (harm i hi).imp_right (hkeep i), fun hb hk => ?_⟩
  exact (htr hb hk).imp_right (hkeep _)

/-- A stall drops no reservation: the slot it was of stays accounted for until RESET (log 20). -/
theorem OrderInv.stalls : OrderInv s.raiseHandshakeStall :=
  { h.moves (p := .stalled) rfl nofun fun _ _ => trivial with }

/-- The wait step: the counted position and the end of the wait are what is left to show. -/
theorem OrderInv.waits {seen : Nat} {again : Nat → Fg} {done : State → State}
    (counts : OrderInv (s.goto (again (seen + 1)))) (ends : OrderInv (done s)) :
    OrderInv (s.waitXfer seen again done) :=
  State.waitXfer_keeps OrderInv seen again h counts h.stalls ends

/-- The issue step: a FILTER image goes to a slot that is not in use, and the position waits for it. -/
theorem OrderInv.issues {p₀ p : Fg} {i : Nat} {image : XferImage} (hfg : s.fg = p₀)
    (hn : ∀ j, ¬ (s.goto p₀).reservingSlot j) (hhand : ∀ j, p.reservation = some j → s.usedBelow j)
    (htarget : image.kind = .filter → s.inuseAt i = false ∧ (s.goto p).reservingSlot i) :
    OrderInv (s.issueXfer i image p) := by
  subst hfg
  refine State.issueXfer_keeps OrderInv i image p h fun _ => ?_
  refine { h.moves rfl hhand fun j hj => absurd hj (hn j) with transfer := fun _ hk => ?_ }
  obtain ⟨hu, hr⟩ := htarget hk
  exact ⟨h.not_armed i hu (hn i), hr⟩

/-- The mark: the slot in hand, the only one reserved, becomes the last one in use (R75 step 4, R77 step 5). -/
theorem OrderInv.marks {p₀ p : Fg} {i : Nat} (hfg : s.fg = p₀) (hi : i < s.inuse.length) (hb : s.xfer.busy = false)
    (hhand : p₀.reservation = some i) (honly : ∀ j, (s.goto p₀).reservingSlot j → j = i) (hp : p.reservation = none) :
    OrderInv ((s.setInuse i).goto p) := by
  have hbelow := h.usedBelow hfg hhand
  have hkeeps := (setInuse_keepsSlots s i).inuse
  have hmarked : (s.setInuse i).inuseAt i = true := by rw [State.inuseAt_setInuse, if_pos ⟨rfl, hi⟩]
  subst hfg
  obtain ⟨hpre, -, harm, -⟩ := (orderInv_iff s).1 h
  refine (orderInv_iff _).2 ⟨fun k hk => ?_, fun k hk => ?_, fun k hk => .inl ?_, fun hb' => ?_⟩
  · change (s.setInuse i).inuseAt k = true at hk
    rw [State.inuseAt_setInuse] at hk
    split at hk
    next e => exact fun j hj => hkeeps j (hbelow j (e.1 ▸ hj))
    next => exact fun j hj => hkeeps j (hpre k hk j hj)
  · exact absurd (hp.symm.trans hk) nofun
  · rcases harm k hk with hu | hr
    · exact hkeeps k hu
    · exact honly k hr ▸ hmarked
  · exact absurd (hb.symm.trans hb') Bool.noConfusion

end

/-! ## Micro-steps outside a reservation -/

/-- `t` has the slots, the in-use flags and the transfer port of `s`, at a position that reserves nothing. A field not
given holds by the step's own definition. -/
structure Unreserving (s t : State) : Prop where
  mo : t.mo = s.mo := by rfl
  inuse : t.inuse = s.inuse := by rfl
  xfer : t.xfer = s.xfer := by rfl
  hand : t.fg.reservation = none := by rfl

namespace Unreserving

theorem microRecv1 (i : Nat) (s : State) : Unreserving s (microRecv1 i s) := by
  unfold Machine.microRecv1
  split_ifs <;> exact {}

theorem microRecvRead (field : RecvField) (i : Nat) (t : Shadow) (s : State) :
    Unreserving s (microRecvRead field i t s) := by
  cases field <;> exact {}

theorem microHalt2 (b : Bool) (after : AfterHalt) (s : State) : Unreserving s (microHalt2 b after s) := by
  cases b <;> cases after <;> exact {}

theorem trySendReturn (f : Frame) (r : ResultCode) (c : Caller) (s : State) :
    Unreserving s (trySendReturn f r c s) := by
  cases c <;> exact {}

theorem microTrySend1 (f : Frame) (c : Caller) (s : State) : Unreserving s (microTrySend1 f c s) := by
  unfold Machine.microTrySend1
  split
  · exact trySendReturn ..
  · exact {}

theorem microEnqueue (f : Frame) (s : State) : Unreserving s (microEnqueue f s) := by
  unfold Machine.microEnqueue
  split <;> exact {}

theorem microDrain1 (poll : Bool) (s : State) : Unreserving s (microDrain1 poll s) := by
  unfold Machine.microDrain1
  cases poll <;> split <;> exact {}

theorem microDrain4 (r : ResultCode) (poll : Bool) (s : State) : Unreserving s (microDrain4 r poll s) := by
  cases r <;> cases poll <;> exact {}

theorem microSend3 (f : Frame) (r : ResultCode) (s : State) : Unreserving s (microSend3 f r s) := by
  cases r <;> exact {}

end Unreserving

/-- Such a step, from a position that is past the issue of no reservation, keeps the invariant. -/
theorem OrderInv.unreserving {s t : State} (h : OrderInv s) {p₀ : Fg} (hfg : s.fg = p₀)
    (hn : ∀ i, ¬ (s.goto p₀).reservingSlot i) (ht : Unreserving s t) : OrderInv t := by
  have hm : OrderInv (s.goto t.fg) :=
    h.moves hfg (fun i hi => absurd (ht.hand.symm.trans hi) nofun) fun i hi => absurd hi (hn i)
  exact hm.congr (fun i => by rw [State.moAt_congr ht.mo]; rfl) ht.inuse ht.xfer rfl

/-! ## Every micro-step -/

theorem fgStep_orderInv {s : State} (hs : BlockInv s) (h : OrderInv s) : OrderInv (fgStep s) := by
  have hlen : s.inuse.length = s.cfg.NRX := hs.storage.2.1
  unfold fgStep
  cases hfg : s.fg with
  | idle => exact h
  | stalled => exact h
  | filter2 i mask value extended =>
    have hm : OrderInv (s.goto (.filter3 i mask value extended)) := h.moves hfg (fun _ => h.usedBelow hfg) fun _ => id
    exact { hm with }
  | filter3 i mask value extended =>
    obtain ⟨-, -, hu⟩ : i < s.cfg.NRX ∧ fitsIdent value extended = true ∧ s.inuseAt i = false := hs.fgOk_at hfg
    exact h.issues hfg (fun _ => id) (fun _ => h.usedBelow hfg) fun _ => ⟨hu, rfl⟩
  | filter4 i seen =>
    exact h.waits (h.moves hfg (fun _ => h.usedBelow hfg) fun _ => id)
      (h.moves hfg (fun _ => h.usedBelow hfg) fun _ => id)
  | filter5 i =>
    obtain ⟨hi, -⟩ : i < s.cfg.NRX ∧ (s.moAt i).armed = true := hs.fgOk_at hfg
    exact h.marks hfg (hlen ▸ hi) (hs.port_free hfg rfl nofun) rfl (fun _ => id) rfl
  | reserve2 i mask value extended =>
    obtain ⟨-, -, hu⟩ : i < s.cfg.NRX ∧ fitsIdent value extended = true ∧ s.inuseAt i = false := hs.fgOk_at hfg
    exact h.issues hfg (fun _ => id) (fun _ => h.usedBelow hfg) fun _ => ⟨hu, rfl⟩
  | reserve3 i seen =>
    exact h.waits (h.moves hfg (fun _ => h.usedBelow hfg) fun _ => id)
      (h.moves hfg (fun _ => h.usedBelow hfg) fun _ => id)
  | reserve4 i =>
    obtain ⟨hi, -⟩ : i < s.cfg.NRX ∧ (s.moAt i).armed = true := hs.fgOk_at hfg
    have hm : OrderInv ((s.setInuse i).goto .idle) :=
      h.marks hfg (hlen ▸ hi) (hs.port_free hfg rfl nofun) rfl (fun _ => id) rfl
    exact { hm with }
  | xferWait seen => exact h.waits (h.moves hfg nofun fun _ => id) (h.unreserving hfg (fun _ => id) {})
  | trySend2 f i c => exact h.issues hfg (fun _ => id) nofun nofun
  | trySend3 f seen c => exact h.waits (h.moves hfg nofun fun _ => id) (h.unreserving hfg (fun _ => id) {})
  | halt2 => exact h.unreserving hfg (fun _ => id) (.microHalt2 ..)
  | trySend1 => exact h.unreserving hfg (fun _ => id) (.microTrySend1 ..)
  | trySend4 => exact h.unreserving hfg (fun _ => id) (.trySendReturn ..)
  | send3 => exact h.unreserving hfg (fun _ => id) (.microSend3 ..)
  | send4 => exact h.unreserving hfg (fun _ => id) (.microEnqueue ..)
  | drain4 => exact h.unreserving hfg (fun _ => id) (.microDrain4 ..)
  | recv1 => exact h.unreserving hfg (fun _ => id) (.microRecv1 ..)
  | recvRead => exact h.unreserving hfg (fun _ => id) (.microRecvRead ..)
  | _ => exact h.unreserving hfg (fun _ => id) {}

/-! ## The interrupt context and the controller -/

section
variable {s : State} (h : OrderInv s)
include h

/-- The interrupt context writes nothing that the invariant reads (R35). -/
theorem OrderInv.interrupt {t : State} (hf : InterruptFrame s t) : OrderInv t :=
  h.congr (fun i => by rw [State.moAt_congr hf.mo]) hf.inuse hf.xfer hf.fg

/-- The bus writes no armed bit (R106, R107, R109). -/
theorem OrderInv.keepsRoles {mo : List MsgObj} (hr : KeepsRoles s mo) : OrderInv { s with mo := mo } :=
  h.congr hr.armed_eq rfl rfl rfl

theorem OrderInv.raiseStatus : OrderInv s.raiseStatus := by
  rw [State.raiseStatus_eq]
  exact { h with }

theorem OrderInv.raiseSlot (i : Nat) : OrderInv (s.raiseSlot i) := by
  rw [State.raiseSlot_eq]
  exact { h with }

theorem OrderInv.rxEffect (i : Nat) (f : Frame) : OrderInv (rxEffect i f s) :=
  (h.keepsRoles (keepsRoles_set s i (keepsRole_withFrame _ f))).raiseSlot i

theorem OrderInv.txDoneEffect (i : Nat) : OrderInv (txDoneEffect i s) :=
  { h.keepsRoles (keepsRoles_set s i (keepsRole_clearRequest _)) with }

theorem OrderInv.busoffEffect (lost : List Nat) (e : Bool) : OrderInv (busoffEffect lost e s) := by
  refine h.congr (fun i => ?_) rfl rfl rfl
  rw [busoffEffect_moAt]
  split <;> rfl

/-- A completed transfer arms no slot but the one that the reservation in progress waits for (R105). -/
theorem OrderInv.xferDoneEffect (hb : s.xfer.busy = true) : OrderInv (xferDoneEffect s) := by
  obtain ⟨hpre, -, harm, htr⟩ := (orderInv_iff s).1 h
  cases him : s.xfer.image with
  | filter id mask xtd =>
    rw [xferDoneEffect_filter s him]
    refine { h with armed := fun k hk => ?_, transfer := nofun }
    obtain e | ⟨rfl, -⟩ := moAt_setMo_cases s s.xfer.target k ((s.moAt s.xfer.target).withFilter id mask xtd)
    · exact harm k (e ▸ hk)
    · exact .inr (htr hb (him ▸ rfl)).2
  | txframe id xtd dlc w =>
    rw [xferDoneEffect_txframe s him]
    refine { h with armed := fun k hk => ?_, transfer := nofun }
    obtain e | ⟨rfl, e⟩ := moAt_setMo_cases s s.xfer.target k
      (txObject id xtd dlc w (Config.draw 29 (.txMask s.xfer.target) s.draws))
    · exact harm k (e ▸ hk)
    · exact absurd ((congrArg MsgObj.armed e).symm.trans hk) Bool.noConfusion

end

/-! ## Every operation -/

section
variable {s t : State} (h : OrderInv s)
include h

/-- Issuing an operation keeps the invariant where its first micro-step does, from an idle foreground. -/
theorem OrderInv.issue {pre : Option RefuseReason} {body : State → State} (ht : s.issue pre body = .next t)
    (hb : OrderInv s.begin → s.begin.fg = .idle → OrderInv (body s.begin)) : OrderInv t :=
  State.issue_keeps OrderInv ht (fun _ => { h with }) fun hf => hb { h with } hf.2

/-- An operation whose first micro-step reserves nothing. -/
theorem OrderInv.issue_unreserving {pre : Option RefuseReason} {body : State → State} (ht : s.issue pre body = .next t)
    (hb : ∀ r : State, Unreserving r (body r)) : OrderInv t :=
  h.issue ht fun h' hfg => h'.unreserving hfg (fun _ => id) (hb _)

/-- The scan of RESERVE_RECEIVE_SLOT and REGISTER_FILTER takes the next slot (R75 step 1). -/
theorem OrderInv.scanRx {found : Nat → Fg} (hfg : s.fg = .idle) (hfound : ∀ i, (found i).reservation = some i) :
    OrderInv (s.scanRx found) := by
  cases hi : s.freeRxSlot with
  | none =>
    rw [State.scanRx_of_full hi]
    exact h.unreserving hfg (fun _ => id) {}
  | some i =>
    rw [State.scanRx_of_free hi]
    obtain ⟨-, -, hbelow⟩ := (s.freeRxSlot_eq_some i).1 hi
    exact h.moves hfg (fun j hj => Option.some.inj ((hfound i).symm.trans hj) ▸ hbelow) fun _ => False.elim

theorem OrderInv.execXferWait {i : Nat} {image : XferImage} (ht : execXferWait i image s = .next t) : OrderInv t := by
  unfold Machine.execXferWait at ht
  split at ht
  · cases ht
  split at ht
  next ha =>
    refine h.issue ht fun h' hfg => ?_
    cases image with
    | filter =>
      obtain ⟨-, hrx, -⟩ := (s.xferAllowed_iff i _).1 ha
      obtain ⟨-, hu, hbelow⟩ := hrx rfl
      exact h'.issues hfg (fun _ => id) (fun j hj => Option.some.inj hj ▸ hbelow) fun _ => ⟨hu, rfl⟩
    | txframe => exact h'.issues hfg (fun _ => id) nofun nofun
  next =>
    cases ht
    exact h

theorem exec_orderInv {i : Instr} (ht : exec i s = .next t) : OrderInv t := by
  unfold exec at ht
  cases i with
  | init => exact h.issue_unreserving ht fun _ => {}
  | registerFilter => exact h.issue ht fun h' hfg => h'.scanRx hfg fun _ => rfl
  | send => exact h.issue_unreserving ht fun _ => {}
  | poll => exact h.issue_unreserving ht (.microDrain1 _)
  | tryReceive => exact h.issue_unreserving ht (.microRecv1 _)
  | rdCounters => exact h.issue_unreserving ht fun _ => {}
  | reserveReceiveSlot => exact h.issue ht fun h' hfg => h'.scanRx hfg fun _ => rfl
  | xferWait => exact h.execXferWait ht
  | precheckHalt => exact h.issue_unreserving ht fun _ => {}
  | trySend => exact h.issue_unreserving ht (.microTrySend1 _ _)
  | enqueue => exact h.issue_unreserving ht (.microEnqueue _)
  | drainOne => exact h.issue_unreserving ht (.microDrain1 _)
  | irqRx i => exact State.slotEvent_keeps OrderInv ht h fun _ _ => h.interrupt (irqRxEffect_frame i s)
  | irqStatus => exact State.event_keeps OrderInv ht h fun _ => h.interrupt (irqStatusEffect_frame s)
  | envXferDone => exact State.event_keeps OrderInv ht h h.xferDoneEffect
  | envRx i f => exact State.slotEvent_keeps OrderInv ht h fun _ _ => h.rxEffect i f
  | envTxDone i => exact State.slotEvent_keeps OrderInv ht h fun _ _ => h.txDoneEffect i
  | envEwarnOn => exact State.event_keeps OrderInv ht h fun _ => .raiseStatus { h with }
  | envEwarnOff => exact State.event_keeps OrderInv ht h fun _ => { h with }
  | envBusoff => exact State.event_keeps OrderInv (execEnvBusoff_event ht) h fun _ => (h.busoffEffect _ _).raiseStatus
  | envSilentHalt => exact State.event_keeps OrderInv (execEnvSilentHalt_event ht) h fun _ => h.busoffEffect _ _
  | envRecovered => exact State.event_keeps OrderInv ht h fun _ => { h with }
  | envErrSet r =>
    refine State.event_keeps OrderInv ht h fun _ => ?_
    cases r
    · exact { h with }
    · exact .raiseStatus { h with }
  | reset =>
    cases ht
    exact afterReset_orderInv _ _ _

end

/-! ## Every step -/

/-- Settles O53: taking the input touches nothing that the invariant reads, and every micro-step of the foreground
(`fgStep_orderInv`) and every operation (`exec_orderInv`) keeps it. -/
theorem stepKeepsSlotsInOrder : Obligations.StepKeepsSlotsInOrder := by
  unfold Obligations.StepKeepsSlotsInOrder
  intro s t hs h ht
  obtain ⟨u, hu, hmove⟩ := step_cases ht
  obtain ⟨hsu, hou⟩ : BlockInv u ∧ OrderInv u := by
    rcases hu with rfl | ⟨rest, ctx, rfl⟩
    · exact ⟨hs, h⟩
    · exact ⟨hs.fetched rest ctx, { h with }⟩
  rcases hmove with rfl | ⟨i, hi⟩ | rfl
  · exact fgStep_orderInv hsu hou
  · exact exec_orderInv hou hi
  · exact { hou with }

end Sys2Proof.Machine
end

section
/-! The lengths on the receive path (spec/41_receive.md R83 corner case (c), spec/45_controller_env.md R106,
spec/70_reset_and_hazards.md R149) from one step to the next: from the frame that the bus stores, through the copy and the
reads, to the frame that is delivered. -/

namespace Sys2Proof.Machine

/-! ## The reads of a TRY_RECEIVE in progress -/

/-- What holds of the position that the foreground is at. -/
theorem ReadingOk.at_position {s : State} (h : ReadingOk s) {p : Fg} (hfg : s.fg = p) : ReadingOk (s.goto p) := hfg ▸ h

/-- While the position stays and no flag is cleared, the reads stay in range. -/
theorem ReadingOk.of_rdy {s t : State} (h : ReadingOk s) (hfg : t.fg = s.fg)
    (hr : ∀ k, s.rdyAt k = true → t.rdyAt k = true) : ReadingOk t := by
  simp only [ReadingOk, hfg]
  cases hp : s.fg with
  | recvRead => exact (h.at_position hp).imp_left (hr _)
  | recv9 => exact h.at_position hp
  | recv10 => exact h.at_position hp
  | _ => trivial

/-- `t` has delivered the frames that `s` has, and what TRY_RECEIVE has read there is in range. A field not given holds by
the step's own definition. -/
structure DeliversNothing (s t : State) : Prop where
  rxOut : t.rxOut = s.rxOut := by rfl
  reading : ReadingOk t := by exact trivial

namespace DeliversNothing

/-- A wait holds where it is, or moves to a position that reads nothing. -/
theorem waitXfer {s : State} {seen : Nat} {again : Nat → Fg} {done : State → State} (h : ReadingOk s)
    (counts : ReadingOk (s.goto (again (seen + 1)))) (ends : DeliversNothing s (done s)) :
    DeliversNothing s (s.waitXfer seen again done) :=
  State.waitXfer_keeps (DeliversNothing s) seen again { reading := h } { reading := counts } {} ends

theorem issueXfer {s : State} {i : Nat} {image : XferImage} {p : Fg} (h : ReadingOk s) (issues : ReadingOk (s.goto p)) :
    DeliversNothing s (s.issueXfer i image p) :=
  State.issueXfer_keeps (DeliversNothing s) i image p { reading := h } fun _ => { reading := issues }

/-- The scan goes on to read a slot that it has found flagged, and has read no length yet. -/
theorem microRecv1 (i : Nat) (s : State) : DeliversNothing s (microRecv1 i s) := by
  unfold Machine.microRecv1
  split_ifs with _ hr
  · exact { reading := ⟨hr, fun hf => absurd rfl hf.1⟩ }
  all_goals exact {}

theorem microHalt2 (b : Bool) (after : AfterHalt) (s : State) : DeliversNothing s (microHalt2 b after s) := by
  cases b <;> cases after <;> exact {}

theorem trySendReturn (f : Frame) (r : ResultCode) (c : Caller) (s : State) :
    DeliversNothing s (trySendReturn f r c s) := by
  cases c <;> exact {}

theorem microTrySend1 (f : Frame) (c : Caller) (s : State) : DeliversNothing s (microTrySend1 f c s) := by
  unfold Machine.microTrySend1
  split
  · exact trySendReturn ..
  · exact {}

theorem microEnqueue (f : Frame) (s : State) : DeliversNothing s (microEnqueue f s) := by
  unfold Machine.microEnqueue
  split <;> exact {}

theorem microDrain1 (poll : Bool) (s : State) : DeliversNothing s (microDrain1 poll s) := by
  unfold Machine.microDrain1
  cases poll <;> split <;> exact {}

theorem microDrain4 (r : ResultCode) (poll : Bool) (s : State) : DeliversNothing s (microDrain4 r poll s) := by
  cases r <;> cases poll <;> exact {}

theorem microSend3 (f : Frame) (r : ResultCode) (s : State) : DeliversNothing s (microSend3 f r s) := by
  cases r <;> exact {}

/-- The scan of RESERVE_RECEIVE_SLOT and REGISTER_FILTER goes to a position that reads nothing. -/
theorem scanRx (s : State) {found : Nat → Fg} (hfound : ∀ i, ReadingOk (s.goto (found i))) :
    DeliversNothing s (s.scanRx found) := by
  unfold State.scanRx
  split
  · exact {}
  · exact { reading := hfound _ }

end DeliversNothing

/-! ## The foreground -/

/-- A frame assembled from a length code in range has a legal length (R67 (c)). -/
theorem lengthOk_frameOfShadow {t : Shadow} (h : dlcOk t.dlc) : lengthOk (frameOfShadow t) = true := by
  have hlt := t.dlc.isLt
  simp only [dlcOk] at h
  simp only [lengthOk, frameOfShadow, frameOfFields, BitVec.toNat_setWidth, decide_eq_true_eq]
  omega

section
variable {s : State} (h : LengthInv s)
include h

/-- The foreground writes neither slots nor shadow entries and sets no flag: what it reads and delivers is left to show. -/
theorem LengthInv.foreground {t : State} (hf : ForegroundFrame s t) (hr : ReadingOk t)
    (hd : ∀ f ∈ t.rxOut, lengthOk f = true) : LengthInv t where
  pending i hi := by
    rw [State.slotPending, hf.intpnd] at hi
    exact State.moAt_congr hf.mo i ▸ h.pending i hi
  ready i hi := by
    rw [State.shAt, hf.sh]
    exact h.ready i (hf.rdy i hi)
  reading := hr
  delivered := hd

theorem LengthInv.deliversNothing {t : State} (hf : ForegroundFrame s t) (hn : DeliversNothing s t) : LengthInv t :=
  h.foreground hf hn.reading (hn.rxOut ▸ h.delivered)

/-- Each of the seven reads: the slot is still flagged, so a length that is read is in range. -/
theorem LengthInv.microRecvRead {field : RecvField} {i : Nat} {t : Shadow} (hfg : s.fg = .recvRead field i t) :
    DeliversNothing s (microRecvRead field i t s) := by
  obtain ⟨hrdy, hlen⟩ :
      s.rdyAt i = true ∧ (field ≠ .id ∧ field ≠ .ext ∧ field ≠ .dlc → dlcOk t.dlc) := h.reading.at_position hfg
  cases field with
  | id => exact { reading := ⟨hrdy, by simp⟩ }
  | ext => exact { reading := ⟨hrdy, by simp⟩ }
  | dlc => exact { reading := ⟨hrdy, fun _ => h.ready i hrdy⟩ }
  | w3 => exact { reading := hlen (by simp) }
  | _ => exact { reading := ⟨hrdy, fun _ => hlen (by simp)⟩ }

/-- The last step delivers the frame that was read. -/
theorem LengthInv.microRecv10 {t : Shadow} (hfg : s.fg = .recv10 t) :
    ∀ f ∈ (microRecv10 t s).rxOut, lengthOk f = true := by
  intro f hf
  rcases List.mem_append.1 hf with hf | hf
  · exact h.delivered f hf
  · rw [List.mem_singleton.1 hf]
    exact lengthOk_frameOfShadow (h.reading.at_position hfg)

theorem fgStep_lengthInv : LengthInv (fgStep s) := by
  have hf := fgStep_frame s
  have hr := h.reading
  unfold fgStep at hf ⊢
  cases hfg : s.fg with rw [hfg] at hf
  | idle => exact h
  | stalled => exact h
  | recvRead field i t => exact h.deliversNothing hf (h.microRecvRead hfg)
  | recv9 i t => exact h.deliversNothing hf { reading := hr.at_position hfg }
  | recv10 t => exact h.foreground hf trivial (h.microRecv10 hfg)
  | recv1 => exact h.deliversNothing hf (.microRecv1 ..)
  | filter3 => exact h.deliversNothing hf (.issueXfer hr trivial)
  | reserve2 => exact h.deliversNothing hf (.issueXfer hr trivial)
  | trySend2 => exact h.deliversNothing hf (.issueXfer hr trivial)
  | filter4 => exact h.deliversNothing hf (.waitXfer hr trivial {})
  | reserve3 => exact h.deliversNothing hf (.waitXfer hr trivial {})
  | xferWait => exact h.deliversNothing hf (.waitXfer hr trivial {})
  | trySend3 => exact h.deliversNothing hf (.waitXfer hr trivial {})
  | halt2 => exact h.deliversNothing hf (.microHalt2 ..)
  | trySend1 => exact h.deliversNothing hf (.microTrySend1 ..)
  | trySend4 => exact h.deliversNothing hf (.trySendReturn ..)
  | send3 => exact h.deliversNothing hf (.microSend3 ..)
  | send4 => exact h.deliversNothing hf (.microEnqueue ..)
  | drain4 => exact h.deliversNothing hf (.microDrain4 ..)
  | _ => exact h.deliversNothing hf {}

end

/-! ## The interrupt context and the controller -/

/-- An IRQ_RX handles a pending indication (R81). -/
theorem State.slotPending_of_irqRxEnabled {s : State} {i : Nat} (h : s.irqRxEnabled i = true) :
    s.slotPending i = true := by
  simp only [State.irqRxEnabled, Bool.and_eq_true] at h
  obtain ⟨⟨-, hp⟩, -⟩ := h
  exact hp

section
variable {s : State} (h : LengthInv s)
include h

/-- A slot with a pending indication is written with a length in range. -/
theorem LengthInv.setMo {i : Nat} {m : MsgObj} (hm : s.slotPending i = true → dlcOk m.dlc) :
    LengthInv (s.setMo i m) :=
  { h with
    pending := fun k hk => by
      obtain e | ⟨rfl, e⟩ := moAt_setMo_cases s i k m <;> rw [e]
      · exact h.pending k hk
      · exact hm hk }

theorem LengthInv.raiseStatus : LengthInv s.raiseStatus := by
  rw [State.raiseStatus_eq]
  exact { h with }

/-- An indication is raised for a slot with a length in range. -/
theorem LengthInv.raiseSlot {i : Nat} (hi : dlcOk (s.moAt i).dlc) : LengthInv (s.raiseSlot i) := by
  unfold State.raiseSlot
  split
  next =>
    refine { h with pending := fun k hk => ?_ }
    rw [State.slotPending_setSlotPending] at hk
    split at hk
    next e => exact e.1 ▸ hi
    next => exact h.pending k hk
  next => exact h

theorem LengthInv.clearSlotPending (i : Nat) : LengthInv (s.setSlotPending i false) :=
  { h with pending := fun k hk => h.pending k (slotPending_of_clear hk) }

/-- A copy into a shadow entry that is then flagged. -/
theorem LengthInv.copies {i : Nat} {e : Shadow} (hi : i < s.sh.length) (he : dlcOk e.dlc) :
    LengthInv ((s.setSh i e).setRdy i true) :=
  { h with
    ready := fun k hk => by
      rw [State.setRdy_shAt, State.shAt_setSh]
      split
      next => exact he
      next hne =>
        rw [State.rdyAt_setRdy, if_neg fun hk' => hne ⟨hk'.1, hi⟩] at hk
        exact h.ready k hk
    reading := h.reading.of_rdy rfl fun _ => rdyAt_setRdy_of_rdyAt (s := s) i }

/-- IRQ_RX copies the slot of a pending indication (R81). -/
theorem LengthInv.irqRxEffect {i : Nat} (hi : i < s.sh.length) (hp : s.slotPending i = true) :
    LengthInv (irqRxEffect i s) := by
  unfold Machine.irqRxEffect
  split
  · have hc : LengthInv { s with stat := { s.stat with err := false } } := { h with }
    exact hc.clearSlotPending i
  · exact (h.copies hi (h.pending i hp)).clearSlotPending i

theorem LengthInv.irqStatusEffect : LengthInv (irqStatusEffect s) := by
  rcases irqStatusEffect_cases s with ⟨-, -, e⟩ | ⟨-, -, e⟩ | ⟨-, -, -, e⟩ | ⟨-, -, -, e⟩ | ⟨-, -, e⟩ <;> rw [e] <;>
    exact { h with }

/-- The frame that the bus stores is well-formed (R106). -/
theorem LengthInv.rxEffect {i : Nat} {f : Frame} (hi : i < s.mo.length) (hf : frameOk f = true) :
    LengthInv (rxEffect i f s) := by
  have hd : dlcOk ((s.moAt i).withFrame f).dlc := dlc_of_len f.len ((frameOk_iff f).1 hf).1
  refine (h.setMo fun _ => hd).raiseSlot ?_
  rwa [State.moAt_setMo, if_pos ⟨rfl, hi⟩]

theorem LengthInv.txDoneEffect (i : Nat) : LengthInv (txDoneEffect i s) :=
  { h.setMo (i := i) (m := { s.moAt i with txrqst := false }) (h.pending i) with }

theorem LengthInv.busoffEffect (lost : List Nat) (e : Bool) : LengthInv (busoffEffect lost e s) := by
  refine { h with pending := fun k hk => ?_ }
  rw [busoffEffect_moAt]
  split <;> exact h.pending k hk

/-- A completed transfer keeps the length of its slot, or writes that of a checked operand (R64, R105). -/
theorem LengthInv.xferDoneEffect (hs : BlockInv s) (hb : s.xfer.busy = true) : LengthInv (xferDoneEffect s) := by
  obtain ⟨-, hok, -⟩ := hs.port hb
  cases him : s.xfer.image with
  | filter id mask xtd =>
    rw [xferDoneEffect_filter s him]
    have hm := h.setMo (i := s.xfer.target) (m := (s.moAt s.xfer.target).withFilter id mask xtd) (h.pending _)
    exact { hm with }
  | txframe id xtd dlc w =>
    rw [xferDoneEffect_txframe s him]
    simp only [State.xferOk, him, imageOk, Bool.and_eq_true, decide_eq_true_eq] at hok
    obtain ⟨⟨-, hlen⟩, -⟩ := hok
    have hm := h.setMo (i := s.xfer.target)
      (m := txObject id xtd dlc w (Config.draw 29 (.txMask s.xfer.target) s.draws)) fun _ => hlen
    exact { hm with }

end

/-! ## Every operation -/

section
variable {s t : State}

/-- An operation is refused, or delivers nothing where its first micro-step does not (R123). -/
theorem issue_deliversNothing {pre : Option RefuseReason} {body : State → State} (h : ReadingOk s)
    (ht : s.issue pre body = .next t) (hb : ∀ r : State, DeliversNothing r (body r)) : DeliversNothing s t :=
  State.issue_keeps (DeliversNothing s) ht (fun _ => { reading := h }) fun _ => { hb s.begin with }

theorem execXferWait_deliversNothing {i : Nat} {image : XferImage} (h : ReadingOk s)
    (ht : execXferWait i image s = .next t) : DeliversNothing s t := by
  unfold execXferWait at ht
  split at ht
  · cases ht
  split at ht
  · refine State.issue_keeps (DeliversNothing s) ht (fun _ => { reading := h }) fun _ => ?_
    have hs : DeliversNothing s.begin (s.begin.issueXfer i image (xferWaitPosition i image)) :=
      .issueXfer h (by cases image <;> trivial)
    exact { hs with }
  · cases ht
    exact { reading := h }

/-- No host or internal operation delivers a frame in its first micro-step. -/
theorem exec_deliversNothing {i : Instr} (hi : opClassOf i.opcode ≤ 1) (h : ReadingOk s) (ht : exec i s = .next t) :
    DeliversNothing s t := by
  unfold exec at ht
  cases i with
  | init => exact issue_deliversNothing h ht fun _ => {}
  | registerFilter => exact issue_deliversNothing h ht fun _ => .scanRx _ fun _ => trivial
  | send => exact issue_deliversNothing h ht fun _ => {}
  | poll => exact issue_deliversNothing h ht (.microDrain1 _)
  | tryReceive => exact issue_deliversNothing h ht (.microRecv1 _)
  | rdCounters => exact issue_deliversNothing h ht fun _ => {}
  | reserveReceiveSlot => exact issue_deliversNothing h ht fun _ => .scanRx _ fun _ => trivial
  | xferWait => exact execXferWait_deliversNothing h ht
  | precheckHalt => exact issue_deliversNothing h ht fun _ => {}
  | trySend => exact issue_deliversNothing h ht (.microTrySend1 _ _)
  | enqueue => exact issue_deliversNothing h ht (.microEnqueue _)
  | drainOne => exact issue_deliversNothing h ht (.microDrain1 _)
  | _ => exact absurd hi (by simp only [Instr.opcode]; decide)

theorem exec_lengthInv {i : Instr} (hs : BlockInv s) (h : LengthInv s) (ht : exec i s = .next t) : LengthInv t := by
  obtain ⟨hmo, -, -, hsh, -, -⟩ := hs.storage
  by_cases hfg : opClassOf i.opcode ≤ 1
  · obtain ⟨r, rfl⟩ | hf := exec_frame hfg ht
    · exact { h with }
    · exact h.deliversNothing hf (exec_deliversNothing hfg h.reading ht)
  unfold exec at ht
  cases i with
  | irqRx i =>
    exact State.slotEvent_keeps LengthInv ht h fun hi he =>
      h.irqRxEffect (hsh ▸ hi) (State.slotPending_of_irqRxEnabled he)
  | irqStatus => exact State.event_keeps LengthInv ht h fun _ => h.irqStatusEffect
  | envXferDone => exact State.event_keeps LengthInv ht h fun hb => h.xferDoneEffect hs hb
  | envRx i f =>
    refine State.slotEvent_keeps LengthInv ht h fun hi he => h.rxEffect (hmo ▸ hi) ?_
    obtain ⟨-, -, -, hf, -⟩ := (s.rxEnabled_iff i f).1 he
    exact hf
  | envTxDone i => exact State.slotEvent_keeps LengthInv ht h fun _ _ => h.txDoneEffect i
  | envEwarnOn => exact State.event_keeps LengthInv ht h fun _ => .raiseStatus { h with }
  | envEwarnOff => exact State.event_keeps LengthInv ht h fun _ => { h with }
  | envBusoff => exact State.event_keeps LengthInv (execEnvBusoff_event ht) h fun _ => (h.busoffEffect _ _).raiseStatus
  | envSilentHalt => exact State.event_keeps LengthInv (execEnvSilentHalt_event ht) h fun _ => h.busoffEffect _ _
  | envRecovered => exact State.event_keeps LengthInv ht h fun _ => { h with }
  | envErrSet r =>
    refine State.event_keeps LengthInv ht h fun _ => ?_
    cases r
    · exact { h with }
    · exact .raiseStatus { h with }
  | reset =>
    cases ht
    exact afterReset_lengthInv _ _ _
  | _ => exact absurd (by simp only [Instr.opcode]; decide) hfg

end

/-! ## Every step -/

/-- Settles O52: taking the input touches nothing that the invariant reads, and every micro-step of the foreground
(`fgStep_lengthInv`) and every operation (`exec_lengthInv`) keeps it. -/
theorem stepKeepsLengthsInRange : Obligations.StepKeepsLengthsInRange := by
  unfold Obligations.StepKeepsLengthsInRange
  intro s t hs h ht
  obtain ⟨u, hu, hmove⟩ := step_cases ht
  obtain ⟨hsu, hlu⟩ : BlockInv u ∧ LengthInv u := by
    rcases hu with rfl | ⟨rest, ctx, rfl⟩
    · exact ⟨hs, h⟩
    · exact ⟨hs.fetched rest ctx, { h with }⟩
  rcases hmove with rfl | ⟨i, hi⟩ | rfl
  · exact fgStep_lengthInv hlu
  · exact exec_lengthInv hsu hlu hi
  · exact { hlu with }

end Sys2Proof.Machine
end

section
/-! IRQ_RX and TRY_RECEIVE (spec/41_receive.md R81 to R84): the copy of a slot and what the shadow entry then holds, the
scan of the ready flags, and a read that no other agent disturbs. -/

namespace Sys2Proof.Machine

/-! ## IRQ_RX -/

theorem exec_irqRx_of_enabled {s : State} {i : Nat} (hi : i < s.cfg.NRX) (he : s.irqRxEnabled i = true) :
    exec (.irqRx i) s = .next (irqRxEffect i s) := by
  simp only [exec, execIrqRx, s.slotEvent_of_lt _ _ _ _ hi, he, State.event_true]

/-- Settles O16: an enabled IRQ_RX takes its effect, which is the stated record. -/
theorem irqRxCopiesOrSkips : Obligations.IrqRxCopiesOrSkips := by
  unfold Obligations.IrqRxCopiesOrSkips
  intro i s hi he
  rw [exec_irqRx_of_enabled hi he, irqRxEffect_eq]
  rfl

/-- Without an error flagged, IRQ_RX leaves the slot's frame in its shadow entry and the flag set, consumes the indication,
and touches no other entry (R81). -/
theorem irqRxEffect_copies {s : State} {i : Nat} (hwf : Memory.wf s) (hi : i < s.cfg.NRX) (he : s.stat.err = false) :
    (irqRxEffect i s).shAt i = shadowOf (s.moAt i) ∧ (irqRxEffect i s).rdyAt i = true ∧
      (irqRxEffect i s).slotPending i = false ∧
      ∀ j, j ≠ i → (irqRxEffect i s).shAt j = s.shAt j ∧ (irqRxEffect i s).rdyAt j = s.rdyAt j := by
  obtain ⟨-, -, hrdy, hsh, hslot, -⟩ := hwf
  have heffect : irqRxEffect i s = ((s.setSh i (shadowOf (s.moAt i))).setRdy i true).setSlotPending i false := by
    simp [irqRxEffect, he]
  rw [heffect]
  refine ⟨?_, ?_, ?_, fun j hj => ⟨?_, ?_⟩⟩
  · simp [State.shAt_setSh, hsh, hi]
  · simp [State.rdyAt_setRdy, hrdy, hi]
  · simp [State.slotPending_setSlotPending, hslot, hi]
  · simp [State.shAt_setSh, hj.symm]
  · simp [State.rdyAt_setRdy, hj.symm]

/-! ## A reception and its copy -/

theorem exec_envRx_of_enabled {s : State} {i : Nat} {f : Frame} (hi : i < s.cfg.N) (he : s.rxEnabled i f = true) :
    exec (.envRx i f) s = .next (rxEffect i f s) := by
  simp only [exec, execEnvRx, s.slotEvent_of_lt _ _ _ _ hi, he, State.event_true]

/-- A slot accepts frames of its own tag only (R106). -/
theorem xtd_of_accepts {m : MsgObj} {f : Frame} (h : accepts m f = true) : m.xtd = f.ext := by
  simp only [accepts, Bool.and_eq_true, beq_iff_eq] at h
  obtain ⟨⟨-, htag⟩, -⟩ := h
  exact htag.symm

/-- A well-formed frame survives being stored in a slot of its tag, copied and read back (R67, R82). -/
theorem frameOfShadow_of_stored {m : MsgObj} {f : Frame} (hf : frameOk f = true) (hx : m.xtd = f.ext) :
    frameOfShadow (shadowOf (m.withFrame f)) = f := by
  obtain ⟨hlen, hid⟩ := (frameOk_iff f).1 hf
  simp only [frameOfShadow, shadowOf, MsgObj.withFrame, frameOfFields, setWidth_setWidth_of_fits f.id f.ext hid,
    len_setWidth_setWidth f.len hlen, unpack_pack, hx]

/-- A reception writes one slot and one indication (R106). -/
theorem rxEffect_eq (i : Nat) (f : Frame) (s : State) : rxEffect i f s = { s with
    mo := s.mo.set i ((s.moAt i).withFrame f)
    intpnd := { s.intpnd with slot := if s.ctrl.ie then s.intpnd.slot.set i true else s.intpnd.slot } } := by
  rw [rxEffect, State.raiseSlot_eq]
  rfl

theorem rxEffect_moAt_self {s : State} {i : Nat} (hi : i < s.mo.length) (f : Frame) :
    (rxEffect i f s).moAt i = (s.moAt i).withFrame f := by
  rw [rxEffect_eq]
  exact (s.moAt_setMo i i _).trans (if_pos ⟨rfl, hi⟩)

/-- Settles O18: the slot holds the frame after the reception (`rxEffect_moAt_self`), IRQ_RX copies the slot
(`irqRxEffect_copies`), and the copy reads back as the frame (`frameOfShadow_of_stored`). -/
theorem latestFrameReachesShadow : Obligations.LatestFrameReachesShadow := by
  unfold Obligations.LatestFrameReachesShadow
  intro s t u i f hwf hN hrx ht hirq herr hu
  obtain ⟨hi, -, -, hf, hacc, -⟩ := (s.rxEnabled_iff i f).1 hrx
  have hin : i < s.cfg.N := Nat.lt_of_lt_of_le hi hN
  cases (exec_envRx_of_enabled hin hrx).symm.trans ht
  have hit : i < (rxEffect i f s).cfg.NRX := by rwa [rxEffect_eq]
  cases (exec_irqRx_of_enabled hit hirq).symm.trans hu
  obtain ⟨hsh, hrdy, hslot, hothers⟩ := irqRxEffect_copies (rxEffect_keeps_wf i f s hwf) hit herr
  refine ⟨?_, hrdy, hslot, fun j hj => ?_⟩
  · rw [hsh, rxEffect_moAt_self (hwf.1 ▸ hin), frameOfShadow_of_stored hf (xtd_of_accepts hacc)]
  · obtain ⟨hshj, hrdyj⟩ := hothers j hj
    rw [hshj, hrdyj, rxEffect_eq]
    exact ⟨rfl, rfl⟩

/-! ## TRY_RECEIVE -/

/-- After INIT it begins with the test of index 0 (R83). -/
theorem exec_tryReceive {s : State} (h : s.ready) : exec .tryReceive s = .next (microRecv1 0 s.begin) := by
  obtain ⟨hf, hi⟩ := h
  simp only [exec, execTryReceive, s.needsInit_of_inited hi]
  exact s.issue_of_free _ hf

theorem State.goto_goto (s : State) (p q : Fg) : (s.goto p).goto q = s.goto q := rfl

section
variable {s : State} {i : Nat}

theorem microRecv1_of_flagged (hi : i < s.cfg.NRX) (hr : s.rdyAt i = true) :
    microRecv1 i s = s.goto (.recvRead .id i Shadow.none) := by
  simp only [microRecv1, hi, hr, if_true]

/-- A test that fails goes on to the next index, if there is one. -/
theorem microRecv1_of_clear (hi : i + 1 < s.cfg.NRX) (hr : s.rdyAt i = false) :
    microRecv1 i s = s.goto (.recv1 (i + 1)) := by
  simp [microRecv1, Nat.lt_of_succ_lt hi, hr, hi]

/-- The last test, if it fails, returns NoMessage. -/
theorem microRecv1_of_last (hi : s.cfg.NRX = i + 1) (hr : s.rdyAt i = false) : microRecv1 i s = s.ret .noMessage := by
  simp [microRecv1, hi, hr]

/-- With no receive slot there is nothing to test. -/
theorem microRecv1_of_none (hi : s.cfg.NRX ≤ i) : microRecv1 i s = s.ret .noMessage := if_neg (Nat.not_lt.2 hi)

/-- A test does not read the position it is taken at. -/
theorem microRecv1_goto (p : Fg) : microRecv1 i (s.goto p) = microRecv1 i s := rfl

end

/-- The scan of clear flags, one micro-step an index, arrives at the test of index `k` (R83 step 1). -/
theorem runFg_microRecv1 {s : State} (k : Nat) (hk : k < s.cfg.NRX) (hclear : ∀ j, j < k → s.rdyAt j = false) :
    runFg k (microRecv1 0 s) = microRecv1 k s := by
  induction k with
  | zero => rfl
  | succ k ih =>
    calc runFg (k + 1) (microRecv1 0 s)
      _ = fgStep (runFg k (microRecv1 0 s)) := runFg_add k 1 _
      _ = fgStep (microRecv1 k s) := by rw [ih (Nat.lt_of_succ_lt hk) fun j hj => hclear j (Nat.lt_succ_of_lt hj)]
      _ = fgStep (s.goto (.recv1 (k + 1))) := by rw [microRecv1_of_clear hk (hclear k (Nat.lt_succ_self k))]
      _ = microRecv1 (k + 1) s := microRecv1_goto _

/-- Undisturbed, the seven reads take the shadow entry as it stands (R83 steps 2 to 8). -/
theorem runFg_reads (s : State) (i : Nat) (t : Shadow) :
    runFg 7 (s.goto (.recvRead .id i t)) = s.goto (.recv9 i (s.shAt i)) := by
  simp [runFg_succ, fgStep, microRecvRead, State.goto_goto]

/-- Settles O19: the scan arrives at the first flag that is set (`runFg_microRecv1`), the reads take the entry
(`runFg_reads`), and the last two micro-steps clear the flag and return the frame. -/
theorem tryReceiveReturnsLeastReady : Obligations.TryReceiveReturnsLeastReady := by
  unfold Obligations.TryReceiveReturnsLeastReady
  intro s i hready hi hrdy hclear
  refine ⟨_, exec_tryReceive hready, ?_⟩
  rw [runFg_add, runFg_microRecv1 (s := s.begin) i hi hclear, microRecv1_of_flagged (s := s.begin) hi hrdy,
    runFg_add 7 2, runFg_reads]
  rfl

/-- Settles O20: with no receive slot the first micro-step returns; otherwise the scan arrives at the last index
(`runFg_microRecv1`), whose test returns. -/
theorem tryReceiveFindsNothing : Obligations.TryReceiveFindsNothing := by
  unfold Obligations.TryReceiveFindsNothing
  intro s hready hclear
  refine ⟨_, exec_tryReceive hready, ?_⟩
  cases hn : s.cfg.NRX with
  | zero =>
    rw [microRecv1_of_none (s := s.begin) (Nat.le_of_eq hn)]
    rfl
  | succ n =>
    rw [hn] at hclear
    have hlast : n < s.begin.cfg.NRX := hn ▸ Nat.lt_succ_self n
    rw [Nat.add_sub_cancel, runFg_microRecv1 n hlast fun j hj => hclear j (Nat.lt_succ_of_lt hj),
      microRecv1_of_last (s := s.begin) hn (hclear n (Nat.lt_succ_self n))]
    rfl

end Sys2Proof.Machine
end

section
/-! PRECHECK_HALT and TRY_SEND (spec/42_transmit.md R87 to R89): what the sampled bus-off bit does to the halt bit, the scan
of the transmit region, and a transmit attempt run to its return to whichever caller it has. -/

namespace Sys2Proof.Machine

/-! ## PRECHECK_HALT -/

/-- The halt bit after a check that sampled `b` (R87 step 2). -/
def State.haltChecked (s : State) (b : Bool) : State :=
  { s with ctrl := { s.ctrl with init := if b then false else s.ctrl.init } }

/-- A check that sampled 0 writes nothing to `CTRL`, which leaves the bit as it was. -/
theorem State.setHalt_if_sampled (s : State) (b : Bool) : (if b then s.setHalt false else s) = s.haltChecked b := by
  cases b <;> rfl

theorem microHalt2_stop (b : Bool) (s : State) : microHalt2 b .stop s = (s.haltChecked b).ret .ok := by
  simp only [microHalt2, State.setHalt_if_sampled]

theorem microHalt2_trySend (b : Bool) (f : Frame) (c : Caller) (s : State) :
    microHalt2 b (.trySend f c) s = (s.haltChecked b).goto (.trySend1 f c) := by
  simp only [microHalt2, State.setHalt_if_sampled]

theorem fgStep_halt2 {s : State} {b : Bool} {after : AfterHalt} (h : s.fg = .halt2 b after) :
    fgStep s = microHalt2 b after s := by
  simp only [fgStep, h]

/-- Issued as itself, PRECHECK_HALT begins with the sample. -/
theorem exec_precheckHalt {s : State} (h : s.free) :
    exec .precheckHalt s = .next (s.begin.goto (.halt2 s.stat.boff .stop)) :=
  s.issue_of_free (microHalt1 .stop) h

/-- Settles O22: the second micro-step writes the halt bit by the sample its position carries, whatever follows it. -/
theorem precheckHaltClearsOnBusOff : Obligations.PrecheckHaltClearsOnBusOff := by
  unfold Obligations.PrecheckHaltClearsOnBusOff
  refine ⟨fun s hf => ⟨_, exec_precheckHalt hf, rfl, ?_⟩, fun s b after hfg => ?_⟩
  · rw [runFg_succ, runFg_zero, fgStep_halt2 rfl, microHalt2_stop]
    rfl
  · rw [fgStep_halt2 hfg]
    cases after with
    | stop => rw [microHalt2_stop]; exact ⟨rfl, rfl⟩
    | trySend f c => rw [microHalt2_trySend]; exact ⟨rfl, rfl⟩

/-! ## TRY_SEND -/

section
variable {s : State} {f : Frame} {c : Caller} {i : Nat}

theorem microTrySend1_of_full (h : s.allTxPending) : microTrySend1 f c s = trySendReturn f .noFreeSlot c s := by
  simp only [microTrySend1, s.freeTxSlot_eq_none.2 h]

theorem microTrySend1_of_free (h : s.leastFreeTx i) : microTrySend1 f c s = s.goto (.trySend2 f i c) := by
  simp only [microTrySend1, (s.freeTxSlot_eq_some i).2 h]

/-- Issued as itself with a well-formed frame, TRY_SEND begins with the scan. -/
theorem exec_trySend (h : s.free) (hf : frameOk f = true) :
    exec (.trySend f) s = .next (microTrySend1 f .direct s.begin) := by
  simp only [exec, execTrySend, (frameRefusal_eq_none f).2 hf]
  exact s.issue_of_free _ h

end

/-- Settles O24: the scan of a full transmit region returns at once. -/
theorem trySendFailsWhenAllPending : Obligations.TrySendFailsWhenAllPending := by
  unfold Obligations.TrySendFailsWhenAllPending
  intro f s hs hf hall
  have hfull : s.begin.allTxPending := hall
  rw [exec_trySend hs hf, microTrySend1_of_full hfull]
  rfl

/-- The state once the transfer of `f` into transmit slot `i` is complete (R89, R105). -/
def State.programTx (s : State) (i : Nat) (f : Frame) : State :=
  { s with
    mo := s.mo.set i (txObject (f.id.setWidth 29) f.ext (f.len.setWidth 4) (pack f.payload)
      (Config.draw 29 (.txMask i) s.draws))
    xfer := ⟨false, i, txImage f⟩
    txSeq := s.txSeq.filter (· ≠ i) ++ [i]
    draws := s.draws + 1 }

/-- The return to a caller replaces the foreground's position. -/
theorem trySendReturn_goto (f : Frame) (r : ResultCode) (c : Caller) (s : State) (p : Fg) :
    trySendReturn f r c (s.goto p) = trySendReturn f r c s := by
  cases c <;> rfl

/-- From the slot its scan took, a transmit attempt with a prompt controller issues the transfer, waits until it is
complete, and returns Ok to its caller. -/
theorem runPrompt_trySend {s : State} (hb : s.xfer.busy = false) (f : Frame) (i : Nat) (c : Caller) :
    runPrompt 4 (s.goto (.trySend2 f i c)) = trySendReturn f .ok c (s.programTx i f) := by
  have hissue : runPrompt 1 (s.goto (.trySend2 f i c)) =
      { s with xfer := ⟨true, i, txImage f⟩, fg := .trySend3 f 0 c } :=
    State.issueXfer_of_not_busy _ i _ _ hb
  calc runPrompt 4 (s.goto (.trySend2 f i c))
    _ = runPrompt 1 (runPrompt 2 (runPrompt 1 (s.goto (.trySend2 f i c)))) := by
        rw [← runPrompt_add, ← runPrompt_add]
    _ = runPrompt 1 ((s.programTx i f).goto (.trySend4 f c)) := by
        rw [hissue, runPrompt_wait rfl rfl fgStep_trySend3, xferDoneEffect_txframe _ rfl]
        rfl
    _ = trySendReturn f .ok c ((s.programTx i f).goto (.trySend4 f c)) := rfl
    _ = trySendReturn f .ok c (s.programTx i f) := trySendReturn_goto ..

/-- Settles O23: the scan takes the least free slot, and `runPrompt_trySend` programs it; the mask is the draw of the
transfer. -/
theorem trySendProgramsLeastFreeSlot : Obligations.TrySendProgramsLeastFreeSlot := by
  unfold Obligations.TrySendProgramsLeastFreeSlot
  intro f s i hs hb hf hi
  have hscan : s.begin.leastFreeTx i := hi
  refine ⟨s.begin.goto (.trySend2 f i .direct), Config.draw 29 (.txMask i) s.draws, ?_, ?_⟩
  · rw [exec_trySend hs hf, microTrySend1_of_free hscan]
  · rw [runPrompt_trySend (s := s.begin) hb]
    rfl

end Sys2Proof.Machine
end

section
/-! The software transmit queue (spec/43_txqueue.md R92, R93, R96): its frames in order, what ENQUEUE and DRAIN_ONE's
last step do to them, and that no other step takes one off. -/

namespace Sys2Proof.Machine

/-! ## The queued frames -/

/-- The queue with `f` behind its youngest entry (R92). -/
def State.pushTail (s : State) (f : Frame) : State :=
  { s with q := { s.q with ring := s.q.ring.set s.tailIndex f, count := s.q.count + 1 } }

theorem microEnqueue_of_room {s : State} (h : s.q.count < s.cfg.QCAP) (f : Frame) :
    microEnqueue f s = (s.pushTail f).ret .ok :=
  if_neg (Nat.ne_of_lt h)

/-- The entry behind the youngest is none of those before it: a ring index repeats only after `QCAP` entries (R53). -/
theorem State.tailIndex_ne {s : State} (h : s.q.count < s.cfg.QCAP) {k : Nat} (hk : k < s.q.count) :
    s.tailIndex ≠ (s.q.head + k) % s.cfg.QCAP := by
  intro he
  have hmod : s.q.count ≡ k [MOD s.cfg.QCAP] := Nat.ModEq.add_left_cancel' s.q.head he
  exact absurd (hmod.eq_of_lt_of_lt h (hk.trans h)) (Nat.ne_of_gt hk)

/-- Appending writes the ring at the tail index alone. -/
theorem State.ringAt_pushTail (s : State) (f : Frame) (j : Nat) :
    (s.pushTail f).ringAt j = if s.tailIndex = j ∧ s.tailIndex < s.q.ring.length then f else s.ringAt j :=
  getD_set ..

/-- An appended frame is the youngest, and the others stay as they are (R96). -/
theorem State.queued_pushTail {s : State} (hl : s.q.ring.length = s.cfg.QCAP) (h : s.q.count < s.cfg.QCAP) (f : Frame) :
    (s.pushTail f).queued = s.queued ++ [f] := by
  have hold : ∀ k ∈ List.range s.q.count, (s.pushTail f).ringAt ((s.q.head + k) % s.cfg.QCAP) =
      s.ringAt ((s.q.head + k) % s.cfg.QCAP) := fun k hk =>
    (s.ringAt_pushTail f _).trans (if_neg fun he => State.tailIndex_ne h (List.mem_range.1 hk) he.1)
  have htail : s.tailIndex < s.q.ring.length := hl ▸ Nat.mod_lt _ (Nat.zero_lt_of_lt h)
  have hnew : (s.pushTail f).ringAt s.tailIndex = f := (s.ringAt_pushTail f _).trans (if_pos ⟨rfl, htail⟩)
  calc (s.pushTail f).queued
    _ = (List.range (s.q.count + 1)).map fun k => (s.pushTail f).ringAt ((s.q.head + k) % s.cfg.QCAP) := rfl
    _ = ((List.range s.q.count).map fun k => (s.pushTail f).ringAt ((s.q.head + k) % s.cfg.QCAP)) ++
          [(s.pushTail f).ringAt s.tailIndex] := by
        rw [List.range_succ, List.map_append]
        rfl
    _ = s.queued ++ [f] := by
        rw [List.map_congr_left hold, hnew]
        rfl

/-- Dropping the head takes off exactly the oldest frame (R93 step 4, R96). -/
theorem State.queued_eq_cons_dropHead {s : State} (hh : s.q.head < s.cfg.QCAP) (hc : 0 < s.q.count) :
    s.queued = s.ringAt s.q.head :: s.dropHead.queued := by
  have hcount : s.q.count = s.q.count - 1 + 1 := (Nat.sub_add_cancel hc).symm
  have hnext (k : Nat) : (s.q.head + (k + 1)) % s.cfg.QCAP = ((s.q.head + 1) % s.cfg.QCAP + k) % s.cfg.QCAP := by
    rw [Nat.mod_add_mod, Nat.add_assoc, Nat.add_comm 1]
  calc s.queued
    _ = (List.range (s.q.count - 1 + 1)).map fun k => s.ringAt ((s.q.head + k) % s.cfg.QCAP) := by
        rw [← hcount]
        rfl
    _ = s.ringAt (s.q.head % s.cfg.QCAP) ::
          (List.range (s.q.count - 1)).map fun k => s.ringAt ((s.q.head + (k + 1)) % s.cfg.QCAP) := by
        rw [List.range_succ_eq_map, List.map_cons, List.map_map]
        rfl
    _ = s.ringAt s.q.head :: s.dropHead.queued := by
        rw [Nat.mod_eq_of_lt hh]
        exact congrArg _ (List.map_congr_left fun k _ => congrArg s.ringAt (hnext k))

/-! ## ENQUEUE and DRAIN_ONE, first in, first out -/

/-- Issued as itself with a well-formed frame, ENQUEUE is one micro-step. -/
theorem exec_enqueue {s : State} {f : Frame} (h : s.free) (hf : frameOk f = true) :
    exec (.enqueue f) s = .next (microEnqueue f s.begin) := by
  simp only [exec, execEnqueue, (frameRefusal_eq_none f).2 hf]
  exact s.issue_of_free _ h

/-- Settles O25: the micro-step's two branches are the statement's. -/
theorem enqueueAppendsOrRejects : Obligations.EnqueueAppendsOrRejects := by
  unfold Obligations.EnqueueAppendsOrRejects
  intro f s hs hf
  rw [exec_enqueue hs hf]
  rfl

/-- The return to either caller leaves the queue alone. -/
theorem drainReturn_queued (r : ResultCode) (poll : Bool) (s : State) : (drainReturn r poll s).queued = s.queued := by
  cases poll <;> rfl

theorem fgStep_drain4 {s : State} {r : ResultCode} {poll : Bool} (h : s.fg = .drain4 r poll) :
    fgStep s = microDrain4 r poll s := by
  simp only [fgStep, h]

/-- Settles O32: an appended frame is the youngest (`State.queued_pushTail`), and the head that is dropped is the oldest
(`State.queued_eq_cons_dropHead`). -/
theorem queueIsFirstInFirstOut : Obligations.QueueIsFirstInFirstOut := by
  unfold Obligations.QueueIsFirstInFirstOut
  intro s hl hh _
  refine ⟨fun f t hs hf hroom ht => ?_, fun poll hfg hc => ?_⟩
  · rw [exec_enqueue hs hf, microEnqueue_of_room (s := s.begin) hroom] at ht
    cases ht
    exact State.queued_pushTail hl hroom f
  · have hstep : fgStep s = drainReturn .ok poll s.dropHead := fgStep_drain4 hfg
    rw [hstep, drainReturn_queued]
    exact State.queued_eq_cons_dropHead hh hc

/-! ## What never takes a frame off -/

/-- `t` has the queue's head where `s` has it, and no fewer entries. A field not given is unchanged by the step's own
definition. -/
structure KeepsQueue (s t : State) : Prop where
  head : t.q.head = s.q.head := by rfl
  count : s.q.count ≤ t.q.count := by exact Nat.le_refl _

namespace KeepsQueue

theorem of_eq {s t : State} (h : t.q = s.q) : KeepsQueue s t := ⟨congrArg Queue.head h, (congrArg Queue.count h).ge⟩

theorem waitXfer {s : State} {seen : Nat} {again : Nat → Fg} {done : State → State} (hd : KeepsQueue s (done s)) :
    KeepsQueue s (s.waitXfer seen again done) :=
  State.waitXfer_keeps (KeepsQueue s) seen again {} {} {} hd

theorem issueXfer (s : State) (i : Nat) (image : XferImage) (p : Fg) : KeepsQueue s (s.issueXfer i image p) :=
  State.issueXfer_keeps (KeepsQueue s) i image p {} fun _ => {}

/-- A refusal sets the mark alone (R123). -/
theorem issue {s t : State} {pre : Option RefuseReason} {body : State → State} (h : s.issue pre body = .next t)
    (hb : ∀ r : State, KeepsQueue r (body r)) : KeepsQueue s t :=
  State.issue_keeps (KeepsQueue s) h (fun _ => {}) fun _ => ⟨(hb s.begin).head, (hb s.begin).count⟩

theorem microRecv1 (i : Nat) (s : State) : KeepsQueue s (microRecv1 i s) := by
  unfold Machine.microRecv1
  split_ifs <;> exact {}

theorem microRecvRead (field : RecvField) (i : Nat) (t : Shadow) (s : State) :
    KeepsQueue s (microRecvRead field i t s) := by
  cases field <;> exact {}

theorem microHalt2 (b : Bool) (after : AfterHalt) (s : State) : KeepsQueue s (microHalt2 b after s) := by
  cases b <;> cases after <;> exact {}

theorem trySendReturn (f : Frame) (r : ResultCode) (c : Caller) (s : State) : KeepsQueue s (trySendReturn f r c s) := by
  cases c <;> exact {}

theorem microTrySend1 (f : Frame) (c : Caller) (s : State) : KeepsQueue s (microTrySend1 f c s) := by
  unfold Machine.microTrySend1
  split
  · exact trySendReturn ..
  · exact {}

/-- An entry appended leaves the head alone and counts one more (R92). -/
theorem microEnqueue (f : Frame) (s : State) : KeepsQueue s (microEnqueue f s) := by
  unfold Machine.microEnqueue
  split
  · exact {}
  · exact { count := Nat.le_succ _ }

theorem microDrain1 (poll : Bool) (s : State) : KeepsQueue s (microDrain1 poll s) := by
  unfold Machine.microDrain1
  cases poll <;> split <;> exact {}

/-- DRAIN_ONE's last step drops the head only after an attempt that returned Ok (R93 step 4). -/
theorem microDrain4 {r : ResultCode} (hr : r ≠ .ok) (poll : Bool) (s : State) :
    KeepsQueue s (microDrain4 r poll s) := by
  cases r with
  | ok => exact absurd rfl hr
  | _ => cases poll <;> exact {}

theorem microSend3 (f : Frame) (r : ResultCode) (s : State) : KeepsQueue s (microSend3 f r s) := by
  cases r <;> exact {}

theorem scanRx (s : State) (found : Nat → Fg) : KeepsQueue s (s.scanRx found) := by
  unfold State.scanRx
  split <;> exact {}

end KeepsQueue

/-- Every micro-step of the foreground but the last one of a DRAIN_ONE whose attempt returned Ok. -/
theorem fgStep_keepsQueue {s : State} (h : ∀ poll, s.fg ≠ .drain4 .ok poll) : KeepsQueue s (fgStep s) := by
  unfold fgStep
  cases hfg : s.fg with
  | filter3 => exact .issueXfer ..
  | reserve2 => exact .issueXfer ..
  | trySend2 => exact .issueXfer ..
  | filter4 => exact .waitXfer {}
  | reserve3 => exact .waitXfer {}
  | xferWait => exact .waitXfer {}
  | trySend3 => exact .waitXfer {}
  | halt2 => exact .microHalt2 ..
  | trySend1 => exact .microTrySend1 ..
  | trySend4 => exact .trySendReturn ..
  | send3 => exact .microSend3 ..
  | send4 => exact .microEnqueue ..
  | drain4 r poll => exact .microDrain4 (fun hr => h poll (hr ▸ hfg)) poll s
  | recv1 => exact .microRecv1 ..
  | recvRead => exact .microRecvRead ..
  | _ => exact {}

theorem execXferWait_keepsQueue {s t : State} {i : Nat} {image : XferImage} (h : execXferWait i image s = .next t) :
    KeepsQueue s t := by
  unfold execXferWait at h
  split at h
  · cases h
  split at h
  · exact .issue h fun _ => .issueXfer ..
  · cases h
    exact {}

/-- The software's state as it stands (R35). -/
def State.software (s : State) : Software := ⟨s.inuse, s.rdy, s.sh, s.q, s.cnt, s.irqEn, s.inited, s.fg⟩

/-- An event of the controller leaves the queue alone: its outcome is the one with the software's state laid over it, so it
still holds that state (`exec_over`). -/
theorem exec_controller_q {i : Instr} {s t : State} (hi : opClassOf i.opcode = 3) (h : exec i s = .next t) :
    t.q = s.q := by
  have hover : exec i s = mapNext s.software.over (exec i s) := exec_over s.software s hi
  rw [h] at hover
  have ht : t = s.software.over t := Host.Outcome.next.inj hover
  rw [ht]
  rfl

/-- Every operation but RESET. -/
theorem exec_keepsQueue {i : Instr} {s t : State} (h : exec i s = .next t) (hi : i ≠ .reset) : KeepsQueue s t := by
  by_cases hirq : opClassOf i.opcode = 2
  · exact .of_eq (exec_irq_frame hirq h).q
  by_cases henv : opClassOf i.opcode = 3
  · exact .of_eq (exec_controller_q henv h)
  unfold exec at h
  cases i with
  | init => exact .issue h fun _ => {}
  | registerFilter => exact .issue h fun _ => .scanRx ..
  | reserveReceiveSlot => exact .issue h fun _ => .scanRx ..
  | send => exact .issue h fun _ => {}
  | poll => exact .issue h (.microDrain1 _)
  | drainOne => exact .issue h (.microDrain1 _)
  | tryReceive => exact .issue h (.microRecv1 _)
  | rdCounters => exact .issue h fun _ => {}
  | xferWait => exact execXferWait_keepsQueue h
  | precheckHalt => exact .issue h fun _ => {}
  | trySend => exact .issue h (.microTrySend1 _ _)
  | enqueue => exact .issue h (.microEnqueue _)
  | reset => exact absurd rfl hi
  | irqRx => exact absurd (by simp only [Instr.opcode]; decide) hirq
  | irqStatus => exact absurd (by simp only [Instr.opcode]; decide) hirq
  | _ => exact absurd (by simp only [Instr.opcode]; decide) henv

end Sys2Proof.Machine
end

section
/-! SEND, DRAIN_ONE and POLL (spec/43_txqueue.md R93 to R95): the halt check and the transmit attempt that they share,
run to the attempt's return, with a transmit slot free and with none, and what each operation makes of the result. -/

namespace Sys2Proof.Machine

/-! ## The halt check and the scan -/

section
variable (s : State) (b : Bool) (f : Frame) (c : Caller)

/-- The check's write, with an attempt to follow (R87 step 2). -/
theorem fgStep_halt2_trySend : fgStep (s.goto (.halt2 b (.trySend f c))) = (s.haltChecked b).goto (.trySend1 f c) :=
  microHalt2_trySend b f c (s.goto (.halt2 b (.trySend f c)))

/-- The scan does not read the position it is taken at (R89 step 1). -/
theorem fgStep_trySend1 : fgStep (s.goto (.trySend1 f c)) = microTrySend1 f c s := by
  cases c <;> rfl

/-- By the foreground alone. -/
theorem runFg_haltCheck : runFg 2 (s.goto (.halt2 b (.trySend f c))) = microTrySend1 f c (s.haltChecked b) := by
  rw [runFg_succ, fgStep_halt2_trySend, runFg_succ, fgStep_trySend1, runFg_zero]

end

section
variable {s : State}

/-- With no transfer pending the prompt schedule is the foreground's, wherever it stands. -/
theorem promptStep_goto (hb : s.xfer.busy = false) (p : Fg) : promptStep (s.goto p) = fgStep (s.goto p) :=
  promptStep_of_not_busy _ hb

/-- With a prompt controller, which has nothing to complete here. -/
theorem runPrompt_haltCheck (hb : s.xfer.busy = false) (b : Bool) (f : Frame) (c : Caller) :
    runPrompt 2 (s.goto (.halt2 b (.trySend f c))) = microTrySend1 f c (s.haltChecked b) := by
  have hb' : (s.haltChecked b).xfer.busy = false := hb
  rw [runPrompt_succ, promptStep_goto hb, fgStep_halt2_trySend, runPrompt_succ, promptStep_goto hb', fgStep_trySend1,
    runPrompt_zero]

/-! ## A checked attempt -/

/-- With a slot free and a prompt controller it programs the least free slot and returns Ok to its caller. -/
theorem runPrompt_attempt_of_free (hb : s.xfer.busy = false) {i : Nat} (hi : s.leastFreeTx i) (b : Bool) (f : Frame)
    (c : Caller) :
    runPrompt 6 (s.goto (.halt2 b (.trySend f c))) = trySendReturn f .ok c ((s.haltChecked b).programTx i f) := by
  have hfree : (s.haltChecked b).leastFreeTx i := hi
  have hb' : (s.haltChecked b).xfer.busy = false := hb
  rw [runPrompt_add 2 4, runPrompt_haltCheck hb, microTrySend1_of_free hfree, runPrompt_trySend hb']

/-- With every slot pending the scan returns NoFreeSlot, and the check's write is all there is. -/
theorem runFg_attempt_of_full (hall : s.allTxPending) (b : Bool) (f : Frame) (c : Caller) :
    runFg 2 (s.goto (.halt2 b (.trySend f c))) = trySendReturn f .noFreeSlot c (s.haltChecked b) := by
  have hfull : (s.haltChecked b).allTxPending := hall
  rw [runFg_haltCheck, microTrySend1_of_full hfull]

/-! ## SEND -/

/-- After INIT and with a well-formed frame SEND begins with the sample of its halt check. -/
theorem exec_send {f : Frame} (h : s.ready) (hf : frameOk f = true) :
    exec (.send f) s = .next (s.begin.goto (.halt2 s.stat.boff (.trySend f .send))) := by
  obtain ⟨hs, hi⟩ := h
  have hpre : s.needsInit.or (frameRefusal f) = none :=
    Option.or_eq_none_iff.2 ⟨s.needsInit_of_inited hi, (frameRefusal_eq_none f).2 hf⟩
  simp only [exec, execSend, hpre]
  exact s.issue_of_free _ hs

end

/-- Settles O28: the attempt returns Ok (`runPrompt_attempt_of_free`), and step 3 reports it; the mask is the draw of the
transfer. -/
theorem sendProgramsFreeSlot : Obligations.SendProgramsFreeSlot := by
  unfold Obligations.SendProgramsFreeSlot
  intro f s i hr hb hf hi
  have hfree : s.begin.leastFreeTx i := hi
  refine ⟨_, Config.draw 29 (.txMask i) s.draws, exec_send hr hf, ?_⟩
  rw [runPrompt_add 6 1, runPrompt_attempt_of_free (s := s.begin) hb hfree]
  rfl

/-- Settles O29: the attempt returns NoFreeSlot (`runFg_attempt_of_full`), and step 4 is ENQUEUE's micro-step. -/
theorem sendFallsBackToQueue : Obligations.SendFallsBackToQueue := by
  unfold Obligations.SendFallsBackToQueue
  intro f s hr hf hall
  have hfull : s.begin.allTxPending := hall
  refine ⟨_, exec_send hr hf, ?_⟩
  rw [runFg_add 2 2, runFg_attempt_of_full hfull]
  rfl

/-! ## A drain, in DRAIN_ONE and in POLL -/

section
variable {s : State}

/-- Issued as itself, DRAIN_ONE begins with the test for an empty queue. -/
theorem exec_drainOne (h : s.free) : exec .drainOne s = .next (microDrain1 false s.begin) :=
  s.issue_of_free _ h

/-- POLL begins with the same test, after INIT. -/
theorem exec_poll (h : s.ready) : exec .poll s = .next (microDrain1 true s.begin) := by
  obtain ⟨hs, hi⟩ := h
  simp only [exec, execPoll, s.needsInit_of_inited hi]
  exact s.issue_of_free _ hs

theorem microDrain1_of_empty (h : s.q.count = 0) (poll : Bool) : microDrain1 poll s = drainReturn .empty poll s :=
  if_pos h

/-- With a frame queued its operand is the oldest, and the halt check follows. -/
theorem microDrain1_of_queued (h : 0 < s.q.count) (poll : Bool) :
    microDrain1 poll s = s.goto (.halt1 (.trySend (s.ringAt s.q.head) (.drain poll))) :=
  if_neg (Nat.ne_of_gt h)

/-- With a slot free, a drain comes to its last step with the oldest frame in the slot and the queue as it was. -/
theorem runPrompt_drain (hb : s.xfer.busy = false) (hc : 0 < s.q.count) {i : Nat} (hi : s.leastFreeTx i) (poll : Bool) :
    runPrompt 7 (microDrain1 poll s) =
      ((s.haltChecked s.stat.boff).programTx i (s.ringAt s.q.head)).goto (.drain4 .ok poll) := by
  rw [microDrain1_of_queued hc, runPrompt_succ, promptStep_goto hb]
  exact runPrompt_attempt_of_free hb hi ..

/-- That step drops it from the queue, and returns Ok to the drain's caller. -/
theorem runPrompt_drain_returns (hb : s.xfer.busy = false) (hc : 0 < s.q.count) {i : Nat} (hi : s.leastFreeTx i)
    (poll : Bool) : runPrompt 8 (microDrain1 poll s) =
      drainReturn .ok poll ((s.haltChecked s.stat.boff).programTx i (s.ringAt s.q.head)).dropHead := by
  rw [runPrompt_add 7 1, runPrompt_drain hb hc hi]
  cases poll <;> rfl

/-- With every slot pending it returns NoFreeSlot. -/
theorem runFg_drain_of_full (hc : 0 < s.q.count) (hall : s.allTxPending) (poll : Bool) :
    runFg 4 (microDrain1 poll s) = drainReturn .noFreeSlot poll (s.haltChecked s.stat.boff) := by
  have hsample : runFg 1 (microDrain1 poll s) =
      s.goto (.halt2 s.stat.boff (.trySend (s.ringAt s.q.head) (.drain poll))) := by
    rw [microDrain1_of_queued hc]
    rfl
  rw [runFg_add 1 3, hsample, runFg_add 2 1, runFg_attempt_of_full hall]
  cases poll <;> rfl

end

/-! ## DRAIN_ONE -/

/-- Settles O26: before the last step the frame is in the slot and the queue as it was (`runPrompt_drain`), and the last
step writes the queue and the result alone (`runPrompt_drain_returns`). -/
theorem drainOneMovesOldestFrame : Obligations.DrainOneMovesOldestFrame := by
  unfold Obligations.DrainOneMovesOldestFrame
  intro s i hs hb hc hi
  have hbefore := runPrompt_drain (s := s.begin) hb hc hi false
  have hafter := runPrompt_drain_returns (s := s.begin) hb hc hi false
  refine ⟨_, Config.draw 29 (.txMask i) s.draws, exec_drainOne hs, ?_, ?_, hafter⟩
  · rw [hbefore]
    rfl
  · rw [hbefore, hafter]
    rfl

/-- Settles O27: the test for an empty queue returns at once, a full transmit region ends the drain with the queue as it
was (`runFg_drain_of_full`), and no other step takes an entry off (`fgStep_keepsQueue`, `exec_keepsQueue`). -/
theorem drainOneKeepsQueueOtherwise : Obligations.DrainOneKeepsQueueOtherwise := by
  unfold Obligations.DrainOneKeepsQueueOtherwise
  refine ⟨fun s hs he => ?_, fun s hs hc hall => ⟨_, exec_drainOne hs, ?_⟩, fun s hfg => ?_, fun i s t ht hi => ?_⟩
  · rw [exec_drainOne hs, microDrain1_of_empty (s := s.begin) he]
    rfl
  · rw [runFg_drain_of_full (s := s.begin) hc hall]
    rfl
  · exact ⟨(fgStep_keepsQueue hfg).head, (fgStep_keepsQueue hfg).count⟩
  · exact ⟨(exec_keepsQueue ht hi).head, (exec_keepsQueue ht hi).count⟩

/-! ## POLL -/

/-- Settles O30: the drain returns (`runPrompt_drain_returns`), and POLL's own step reports Ok. -/
theorem pollMovesOneFrame : Obligations.PollMovesOneFrame := by
  unfold Obligations.PollMovesOneFrame
  intro s i hr hb hc hi
  refine ⟨_, Config.draw 29 (.txMask i) s.draws, exec_poll hr, ?_⟩
  rw [runPrompt_add 8 1, runPrompt_drain_returns (s := s.begin) hb hc hi]
  rfl

/-- Settles O31: POLL reports Ok after a drain that found the queue empty, or the transmit region full
(`runFg_drain_of_full`). -/
theorem pollIsIdleOtherwise : Obligations.PollIsIdleOtherwise := by
  unfold Obligations.PollIsIdleOtherwise
  refine ⟨fun s hr he => ⟨_, exec_poll hr, ?_⟩, fun s hr hc hall => ⟨_, exec_poll hr, ?_⟩⟩
  · rw [microDrain1_of_empty (s := s.begin) he]
    rfl
  · rw [runFg_add 4 1, runFg_drain_of_full (s := s.begin) hc hall]
    rfl

end Sys2Proof.Machine
end

section
/-! The fault monitor's handler and its counters (spec/44_fault_monitor.md R99 to R103): what IRQ_STATUS does for each
pair of status bits, a bus-off from its event to its handling, the two reads of RD_COUNTERS, and the one operation besides
RESET that writes the counters. -/

namespace Sys2Proof.Machine

/-! ## IRQ_STATUS -/

section
variable {s : State}

/-- The gates of R128 for the status indication, and the stop after a CounterOverflow (R124). -/
theorem State.irqStatusEnabled_iff : s.irqStatusEnabled = true ↔ s.ctrl.ie = true ∧ s.irqEn = true ∧
    s.refused = none ∧ s.intpnd.status = true ∧ s.faults.counterOverflow = false := by
  simp [State.irqStatusEnabled, State.irqGate, and_assoc]

theorem exec_irqStatus_of_enabled (he : s.irqStatusEnabled = true) :
    exec .irqStatus s = .next (irqStatusEffect s) := by
  simp only [exec, execIrqStatus, he, State.event_true]

theorem State.counterFull_eq_false {c : Nat} (h : c < ones s.cfg.CNTW) : s.counterFull c = false :=
  decide_eq_false (Nat.not_le.2 h)

/-- Bus-off stands before error-warning, which is not looked at. -/
theorem irqStatusEffect_of_boff (hb : s.stat.boff = true) (hc : s.cnt.boff < ones s.cfg.CNTW) :
    irqStatusEffect s = { s with
      cnt := { s.cnt with boff := s.cnt.boff + 1 }
      ctrl := { s.ctrl with init := false }
      intpnd := { s.intpnd with status := false } } := by
  rw [irqStatusEffect, if_pos hb, State.counterFull_eq_false hc]
  rfl

theorem irqStatusEffect_of_ewarn (hb : s.stat.boff = false) (he : s.stat.ewarn = true)
    (hc : s.cnt.ewarn < ones s.cfg.CNTW) :
    irqStatusEffect s = { s with
      cnt := { s.cnt with ewarn := s.cnt.ewarn + 1 }
      intpnd := { s.intpnd with status := false } } := by
  rw [irqStatusEffect, hb, he, State.counterFull_eq_false hc]
  rfl

theorem irqStatusEffect_of_neither (hb : s.stat.boff = false) (he : s.stat.ewarn = false) :
    irqStatusEffect s = s.setStatusPending false := by
  rw [irqStatusEffect, hb, he]
  rfl

/-- The counter that the status bits select is at its limit. -/
theorem irqStatusEffect_of_full (h : s.stat.boff = true ∧ ones s.cfg.CNTW ≤ s.cnt.boff ∨
    s.stat.boff = false ∧ s.stat.ewarn = true ∧ ones s.cfg.CNTW ≤ s.cnt.ewarn) :
    irqStatusEffect s = s.raiseCounterOverflow := by
  obtain ⟨hb, hc⟩ | ⟨hb, he, hc⟩ := h
  · simp [irqStatusEffect, State.counterFull, hb, hc]
  · simp [irqStatusEffect, State.counterFull, hb, he, hc]

end

/-- Settles O33: an enabled IRQ_STATUS takes its effect, which has one equation for each clause. -/
theorem irqStatusCountsAndClearsHalt : Obligations.IrqStatusCountsAndClearsHalt := by
  unfold Obligations.IrqStatusCountsAndClearsHalt
  intro s henabled
  rw [exec_irqStatus_of_enabled henabled]
  refine ⟨fun hb hc => ?_, fun hb he hc => ?_, fun hb he => ?_, fun h => ?_⟩
  · rw [irqStatusEffect_of_boff hb hc]
  · rw [irqStatusEffect_of_ewarn hb he hc]
  · rw [irqStatusEffect_of_neither hb he]
    rfl
  · rw [irqStatusEffect_of_full h]
    rfl

/-! ## A bus-off and its handling -/

/-- With the sources enabled, an ENV_BUSOFF that takes place leaves the status indication pending (R109, R113). -/
theorem eq_of_exec_envBusoff {s t : State} {lost : List Nat} {e : Bool} (h : exec (.envBusoff lost e) s = .next t)
    (henabled : s.busoffEnabled lost = true) (hie : s.ctrl.ie = true) :
    t = (busoffEffect lost e s).setStatusPending true := by
  have hevent := execEnvBusoff_event h
  rw [henabled, State.event_true] at hevent
  have hraise : (busoffEffect lost e s).raiseStatus = (busoffEffect lost e s).setStatusPending true := if_pos hie
  exact (Host.Outcome.next.inj hevent).symm.trans hraise

/-- Settles O34: the event leaves every gate of IRQ_STATUS open and the counters as they were, so the bus-off branch of
the handler counts it (`irqStatusEffect_of_boff`). -/
theorem busOffIsCountedOnceAndHaltCleared : Obligations.BusOffIsCountedOnceAndHaltCleared := by
  unfold Obligations.BusOffIsCountedOnceAndHaltCleared
  intro s t lost e _ henabled hie hirq hrefused hover hcount ht
  obtain rfl := eq_of_exec_envBusoff ht henabled hie
  have hopen : ((busoffEffect lost e s).setStatusPending true).irqStatusEnabled = true :=
    State.irqStatusEnabled_iff.2 ⟨hie, hirq, hrefused, rfl, hover⟩
  refine ⟨rfl, rfl, rfl, rfl, _, exec_irqStatus_of_enabled hopen, ?_⟩
  rw [irqStatusEffect_of_boff (s := (busoffEffect lost e s).setStatusPending true) rfl hcount]
  exact ⟨rfl, rfl, rfl⟩

/-! ## RD_COUNTERS -/

/-- Issued before INIT or after it, RD_COUNTERS begins with the read of the bus-off counter. -/
theorem exec_rdCounters {s : State} (h : s.free) : exec .rdCounters s =
    .next { s.begin with ports := { s.begin.ports with boff := s.cnt.boff }, fg := .counters2 } := by
  simp only [exec, execRdCounters, s.issue_of_free _ h]
  rfl

/-- The second read is of the counters as they then are. -/
theorem runFg_counters2 {s : State} (h : s.fg = .counters2) :
    runFg 2 s = { s with ports := { s.ports with code := some .ok, ewarn := s.cnt.ewarn }, fg := .idle } := by
  have hread : fgStep s = microCounters2 s := by simp only [fgStep, h]
  rw [runFg_succ, hread]
  rfl

/-- Settles O35: the first micro-step fills one port, and the last two (`runFg_counters2`) fill the other and return. -/
theorem rdCountersReadsBoth : Obligations.RdCountersReadsBoth := by
  unfold Obligations.RdCountersReadsBoth
  intro s hfree
  refine ⟨_, exec_rdCounters hfree, rfl, ?_, fun c => ?_⟩
  · rw [runFg_counters2 rfl]
    rfl
  · rw [runFg_counters2 rfl]
    exact ⟨rfl, rfl⟩

/-! ## Who writes the counters -/

section
variable {i : Instr} {s t : State}

/-- An event of the controller leaves all of the software's state alone (R35): its outcome is the one with that state laid
over it (`exec_over`). -/
theorem exec_controller_software (hi : opClassOf i.opcode = 3) (h : exec i s = .next t) : t.software = s.software := by
  have hover : exec i s = mapNext s.software.over (exec i s) := exec_over s.software s hi
  rw [h] at hover
  have ht : t = s.software.over t := Host.Outcome.next.inj hover
  rw [ht]
  rfl

theorem irqRxEffect_cnt (k : Nat) (s : State) : (irqRxEffect k s).cnt = s.cnt := by
  rw [irqRxEffect_eq]
  split <;> rfl

/-- No operation of the foreground or of the controller writes the counters, nor does IRQ_RX. -/
theorem exec_keeps_cnt (h : exec i s = .next t) (hreset : i ≠ .reset) (hstatus : i ≠ .irqStatus) : t.cnt = s.cnt := by
  by_cases hfg : opClassOf i.opcode ≤ 1
  · obtain ⟨r, rfl⟩ | hframe := exec_frame hfg h
    · rfl
    · exact hframe.cnt
  by_cases henv : opClassOf i.opcode = 3
  · exact congrArg Software.cnt (exec_controller_software henv h)
  have hclass : ¬ (opClassOf i.opcode ≤ 1 ∨ opClassOf i.opcode = 3) := not_or.2 ⟨hfg, henv⟩
  cases i with
  | irqRx k => exact State.slotEvent_keeps (·.cnt = s.cnt) h rfl fun _ _ => irqRxEffect_cnt k s
  | irqStatus => exact absurd rfl hstatus
  | reset => exact absurd rfl hreset
  | _ => exact absurd (by simp only [Instr.opcode]; decide) hclass

/-- `c'` is `c`, or `c` with one of the two counters one higher. -/
def Counters.AtMostOneMore (c c' : Counters) : Prop :=
  c' = c ∨ c' = { c with boff := c.boff + 1 } ∨ c' = { c with ewarn := c.ewarn + 1 }

/-- An overflow and a status without either bit count nothing; the other two branches count one (R99). -/
theorem irqStatusEffect_atMostOneMore (s : State) : s.cnt.AtMostOneMore (irqStatusEffect s).cnt := by
  rcases irqStatusEffect_cases s with ⟨-, -, e⟩ | ⟨-, -, e⟩ | ⟨-, -, -, e⟩ | ⟨-, -, -, e⟩ | ⟨-, -, e⟩ <;> rw [e]
  · exact .inl rfl
  · exact .inr (.inl rfl)
  · exact .inl rfl
  · exact .inr (.inr rfl)
  · exact .inl rfl

end

/-- Settles O36: the foreground's frame holds the counters, `exec_keeps_cnt` is the case of the other operations, and a
step of IRQ_STATUS is none or its effect. -/
theorem countersOnlyGrowInIrqStatus : Obligations.CountersOnlyGrowInIrqStatus := by
  unfold Obligations.CountersOnlyGrowInIrqStatus
  refine ⟨fun s => (fgStep_frame s).cnt, fun i s t h => exec_keeps_cnt h, fun s t h => ?_, fun s t h => ?_⟩
  · cases h
    rfl
  · exact State.event_keeps (s.cnt.AtMostOneMore ·.cnt) h (.inl rfl) fun _ => irqStatusEffect_atMostOneMore s

end Sys2Proof.Machine
end

section
/-! The events of the controller (spec/45_controller_env.md R105 to R116): each with its precondition met and without it,
what a slot accepts (R106), what no event of the controller does, and which steps clear the halt bit. -/

namespace Sys2Proof.Machine

/-! ## A slot's event without its precondition -/

theorem State.slotEvent_of_not {s : State} {i n : Nat} {b : Bool} {effect : State → State} (hi : i < n)
    (h : ¬ b = true) : s.slotEvent i n b effect = .next s :=
  (s.slotEvent_of_lt i n b effect hi).trans (if_neg h)

/-! ## Completion of a transfer (R105) -/

section
variable {s : State}

theorem exec_envXferDone_of_busy (h : s.xfer.busy = true) : exec .envXferDone s = .next (xferDoneEffect s) := if_pos h

theorem exec_envXferDone_of_free (h : s.xfer.busy = false) : exec .envXferDone s = .next s :=
  if_neg (ne_true_of_eq_false h)

end

/-- Settles O37: a pending transfer completes, and each kind of image has one equation for its landing; the mask of a
transmit slot is the draw of the transfer. -/
theorem xferDoneLandsTheImage : Obligations.XferDoneLandsTheImage := by
  unfold Obligations.XferDoneLandsTheImage
  intro s hb
  rw [exec_envXferDone_of_busy hb]
  refine ⟨fun id mask xtd him => ?_, fun id xtd dlc w him => ⟨Config.draw 29 (.txMask s.xfer.target) s.draws, ?_⟩⟩
  · rw [xferDoneEffect_filter s him]
    rfl
  · rw [xferDoneEffect_txframe s him]
    rfl

/-! ## Reception (R106) -/

/-- A word leaves no remainder by `2 ^ W` iff its bits below `W` are clear. -/
theorem toNat_mod_two_pow_eq_zero_iff {w : Nat} (x : BitVec w) (W : Nat) :
    x.toNat % 2 ^ W = 0 ↔ ∀ k, k < W → x.getLsbD k = false := by
  constructor
  · intro h k hk
    have hbit : (x.toNat % 2 ^ W).testBit k = false := by rw [h, Nat.zero_testBit]
    simpa [Nat.testBit_mod_two_pow, hk, ← BitVec.testBit_toNat] using hbit
  · intro h
    apply Nat.eq_of_testBit_eq
    intro k
    rw [Nat.testBit_mod_two_pow, Nat.zero_testBit]
    by_cases hk : k < W
    · simpa [hk, ← BitVec.testBit_toNat] using h k hk
    · simp [hk]

/-- A masked difference has a clear bit iff the mask does not select it or the two words agree there. -/
theorem getLsbD_maskedDiff_eq_false {w : Nat} (a b m : BitVec w) (k : Nat) :
    ((a ^^^ b) &&& m).getLsbD k = false ↔ (m.getLsbD k = true → a.getLsbD k = b.getLsbD k) := by
  rw [BitVec.getLsbD_and, BitVec.getLsbD_xor]
  cases m.getLsbD k <;> simp

/-- Settles O39: the masked difference of the identifiers has no bit below `W` (`toNat_mod_two_pow_eq_zero_iff`), each bit
of it is a selected disagreement (`getLsbD_maskedDiff_eq_false`), and `W` is at most the 29 bits of a slot. -/
theorem acceptanceComparesMaskedBits : Obligations.AcceptanceComparesMaskedBits := by
  unfold Obligations.AcceptanceComparesMaskedBits
  intro m f
  have hbits : ((f.id.setWidth 29 ^^^ m.id) &&& m.mask).toNat % 2 ^ identWidth m.xtd = 0 ↔
      ∀ k, k < identWidth m.xtd → m.mask.getLsbD k = true → f.id.getLsbD k = m.id.getLsbD k := by
    rw [toNat_mod_two_pow_eq_zero_iff]
    refine forall₂_congr fun k hk => ?_
    have hwidth : k < 29 := Nat.lt_of_lt_of_le hk (identWidth_le m.xtd)
    rw [getLsbD_maskedDiff_eq_false, BitVec.getLsbD_setWidth, decide_eq_true hwidth, Bool.true_and]
  simp only [accepts, Bool.and_eq_true, Bool.not_eq_true', beq_iff_eq, decide_eq_true_eq, hbits, and_assoc]
  rfl

/-- Settles O40: the accepted identifier agrees with the filter wherever the mask selects, so the slot keeps its filter
(`sameFilter_withFrame`). -/
theorem acceptanceSurvivesReception : Obligations.AcceptanceSurvivesReception := by
  unfold Obligations.AcceptanceSurvivesReception
  exact fun m f g h => (sameFilter_withFrame h).accepts g

theorem exec_envRx_of_not {s : State} {i : Nat} {f : Frame} (hi : i < s.cfg.N) (he : ¬ s.rxEnabled i f = true) :
    exec (.envRx i f) s = .next s := State.slotEvent_of_not hi he

/-- Settles O38: `State.rxEnabled_iff` is the list of R106's conditions, and the effect is the stated record
(`rxEffect_eq`). -/
theorem envRxStoresTheFrame : Obligations.EnvRxStoresTheFrame := by
  unfold Obligations.EnvRxStoresTheFrame
  refine ⟨fun i f s hi hN hinit hboff hf hacc hpolicy => ?_, fun i f s hi hnot => ?_⟩
  · have he : s.rxEnabled i f = true := (s.rxEnabled_iff i f).2 ⟨hi, hinit, hboff, hf, hacc, hpolicy⟩
    rw [exec_envRx_of_enabled (Nat.lt_of_lt_of_le hi hN) he, rxEffect_eq]
    rfl
  · exact exec_envRx_of_not hi (mt (s.rxEnabled_iff i f).1 hnot)

/-! ## Transmission (R107) -/

section
variable {s : State} {i : Nat} (hi : i < s.cfg.N)
include hi

theorem exec_envTxDone_of_enabled (he : s.txEnabled i = true) : exec (.envTxDone i) s = .next (txDoneEffect i s) :=
  (s.slotEvent_of_lt i _ _ _ hi).trans (if_pos he)

theorem exec_envTxDone_of_not (he : ¬ s.txEnabled i = true) : exec (.envTxDone i) s = .next s :=
  State.slotEvent_of_not hi he

end

/-- Settles O41: `State.txEnabled_iff` is the list of R107's conditions, and the effect is the stated record. -/
theorem envTxDoneSendsTheFrame : Obligations.EnvTxDoneSendsTheFrame := by
  unfold Obligations.EnvTxDoneSendsTheFrame
  refine ⟨fun i s hr hi hinit hboff hreq hdir hlow hprog => ?_, fun i s hi hnot => ?_⟩
  · rw [exec_envTxDone_of_enabled hi ((s.txEnabled_iff i hi).2 ⟨hr, hinit, hboff, hreq, hdir, hlow, hprog⟩)]
    rfl
  · exact exec_envTxDone_of_not hi (mt (s.txEnabled_iff i hi).1 hnot)

/-- Off the bus the controller neither receives nor transmits (R106, R107, R112). -/
theorem State.not_enabled_of_offBus {s : State} (h : s.ctrl.init = true ∨ s.stat.boff = true) (i : Nat) :
    (∀ f, ¬ s.rxEnabled i f = true) ∧ ¬ s.txEnabled i = true := by
  have hbus : s.onBus = false := by
    obtain h | h := h <;> simp [State.onBus, h]
  exact ⟨fun f => by simp [State.rxEnabled, hbus], by simp [State.txEnabled, hbus]⟩

/-! ## Error-warning (R108, R115) -/

section
variable {s : State}

theorem exec_envEwarnOn_of_enabled (hinit : s.ctrl.init = false) (hewarn : s.stat.ewarn = false)
    (hboff : s.stat.boff = false) :
    exec .envEwarnOn s = .next { s with stat := { s.stat with ewarn := true } }.raiseStatus :=
  if_pos (by simp [hinit, hewarn, hboff])

theorem exec_envEwarnOn_of_not (h : s.ctrl.init = true ∨ s.stat.ewarn = true ∨ s.stat.boff = true) :
    exec .envEwarnOn s = .next s := by
  refine if_neg ?_
  obtain h | h | h := h <;> simp [h]

theorem exec_envEwarnOff_of_enabled (hewarn : s.stat.ewarn = true) (hboff : s.stat.boff = false) :
    exec .envEwarnOff s = .next { s with stat := { s.stat with ewarn := false } } :=
  if_pos (by simp [hewarn, hboff])

theorem exec_envEwarnOff_of_not (h : s.stat.ewarn = false ∨ s.stat.boff = true) : exec .envEwarnOff s = .next s := by
  refine if_neg ?_
  obtain h | h := h <;> simp [h]

end

/-- Settles O42: each event with its precondition met, the first with the status indication it raises. -/
theorem errorWarningRisesAndFalls : Obligations.ErrorWarningRisesAndFalls := by
  unfold Obligations.ErrorWarningRisesAndFalls
  refine ⟨fun s hinit hewarn hboff => ?_, fun s hewarn hboff => exec_envEwarnOff_of_enabled hewarn hboff⟩
  rw [exec_envEwarnOn_of_enabled hinit hewarn hboff, State.raiseStatus_eq]

/-! ## Bus-off and silent halt (R109, R110, R111) -/

section
variable {s : State} {lost : List Nat} {e : Bool} (hl : ∀ i ∈ lost, i < s.cfg.N)
include hl

/-- A set of slots of the block makes a bus-off an event. -/
theorem exec_envBusoff_eq : exec (.envBusoff lost e) s =
    s.event (s.busoffEnabled lost) fun s => (busoffEffect lost e s).raiseStatus := by
  simp only [exec, execEnvBusoff, (s.badSlot_eq_none lost).2 hl]

theorem exec_envSilentHalt_eq : exec (.envSilentHalt lost e) s =
    s.event (s.busoffEnabled lost) (busoffEffect lost e) := by
  simp only [exec, execEnvSilentHalt, (s.badSlot_eq_none lost).2 hl]

theorem exec_envBusoff_of_enabled (h : s.busoffEnabled lost = true) :
    exec (.envBusoff lost e) s = .next (busoffEffect lost e s).raiseStatus :=
  (exec_envBusoff_eq hl).trans (if_pos h)

theorem exec_envSilentHalt_of_enabled (h : s.busoffEnabled lost = true) :
    exec (.envSilentHalt lost e) s = .next (busoffEffect lost e s) :=
  (exec_envSilentHalt_eq hl).trans (if_pos h)

/-- Neither happens without its precondition. -/
theorem exec_abandonment_of_not (h : ¬ s.busoffEnabled lost = true) :
    exec (.envBusoff lost e) s = .next s ∧ exec (.envSilentHalt lost e) s = .next s :=
  ⟨(exec_envBusoff_eq hl).trans (if_neg h), (exec_envSilentHalt_eq hl).trans (if_neg h)⟩

end

/-- The abandoned frames are those of the slots of the set, each slot once. -/
theorem State.framesOf_eq_map (s : State) {lost : List Nat} (hl : ∀ i ∈ lost, i < s.cfg.N) :
    ∃ l : List Nat, l.Nodup ∧ (∀ i, i ∈ l ↔ i ∈ lost) ∧ s.framesOf lost = l.map fun i => frameOfSlot (s.moAt i) := by
  refine ⟨(List.range s.cfg.N).filter (· ∈ lost), List.nodup_range.filter _, fun i => ?_, rfl⟩
  simpa using hl i

/-- Settles O43: a silent halt has the shared effect, read slot by slot (`busoffEffect_moAt`) and frame by frame
(`State.framesOf_eq_map`); a bus-off raises the indication besides; and without `State.busoffEnabled_iff`'s conditions
neither happens. -/
theorem busOffHaltsAndAbandons : Obligations.BusOffHaltsAndAbandons := by
  unfold Obligations.BusOffHaltsAndAbandons
  refine ⟨fun lost e s hinit hboff hlost => ?_, fun lost e s hl hnot => ?_⟩
  · have hl : ∀ i ∈ lost, i < s.cfg.N := fun i hi => (hlost i hi).2.1
    have he : s.busoffEnabled lost = true :=
      (s.busoffEnabled_iff lost hl).2 ⟨hinit, hboff, fun i hi => ⟨(hlost i hi).1, (hlost i hi).2.2⟩⟩
    obtain ⟨l, hnodup, hmem, hframes⟩ := s.framesOf_eq_map hl
    refine ⟨_, exec_envSilentHalt_of_enabled hl he, rfl, List.length_mapIdx, busoffEffect_moAt lost e s,
      ⟨l, hnodup, hmem, congrArg (s.txLost ++ ·) hframes⟩, ?_⟩
    rw [exec_envBusoff_of_enabled hl he, State.raiseStatus_eq]
    rfl
  · exact exec_abandonment_of_not hl (mt (s.busoffEnabled_iff lost hl).1 hnot)

/-! ## Recovery and the error condition (R114, R116) -/

section
variable {s : State}

theorem exec_envRecovered_of_enabled (hboff : s.stat.boff = true) (hinit : s.ctrl.init = false) :
    exec .envRecovered s = .next { s with stat := { s.stat with boff := false, ewarn := false } } :=
  if_pos (by simp [hboff, hinit])

theorem exec_envRecovered_of_not (h : s.stat.boff = false ∨ s.ctrl.init = true) : exec .envRecovered s = .next s := by
  refine if_neg ?_
  obtain h | h := h <;> simp [h]

theorem exec_envErrSet_of_running (r : Bool) (h : s.ctrl.init = false) : exec (.envErrSet r) s = .next { s with
    stat := { s.stat with err := true }
    intpnd := { s.intpnd with status := if r && s.ctrl.ie then true else s.intpnd.status } } := by
  simp only [exec, execEnvErrSet, h, Bool.not_false, State.event_true, State.raiseStatus_eq]
  cases r <;> rfl

theorem exec_envErrSet_of_halted (r : Bool) (h : s.ctrl.init = true) : exec (.envErrSet r) s = .next s :=
  if_neg (by simp [h])

end

/-! ## The halted controller (R112) -/

/-- Settles O46: each event without its precondition changes nothing, and the two that the halt bit never disables
have their effects. -/
theorem haltedControllerIsSilent : Obligations.HaltedControllerIsSilent := by
  unfold Obligations.HaltedControllerIsSilent
  refine fun s => ⟨fun hinit => ⟨?ewarnOn, ?recovered, ?errSet, exec_envXferDone_of_busy, exec_envEwarnOff_of_enabled,
    fun lost e hl => ?abandonment⟩, fun hoff i hi => ?offBus, exec_envXferDone_of_free,
    fun h => exec_envEwarnOn_of_not (.inr h), exec_envEwarnOff_of_not, fun h => exec_envRecovered_of_not (.inl h)⟩
  case ewarnOn => exact exec_envEwarnOn_of_not (.inl hinit)
  case recovered => exact exec_envRecovered_of_not (.inr hinit)
  case errSet => exact fun r => exec_envErrSet_of_halted r hinit
  case abandonment =>
    refine exec_abandonment_of_not hl fun he => ?_
    obtain ⟨hrun, -⟩ := (s.busoffEnabled_iff lost hl).1 he
    exact absurd (hinit.symm.trans hrun) Bool.noConfusion
  case offBus =>
    obtain ⟨hrx, htx⟩ := State.not_enabled_of_offBus hoff i
    exact ⟨fun f => exec_envRx_of_not hi (hrx f), exec_envTxDone_of_not hi htx⟩

/-! ## What no event of the controller does -/

/-- The controller clears neither the halt bit nor the error flag (R114, R116), and changes no indication while the
sources are disabled (R113). A field not given is by the event's own definition. -/
structure ControllerFrame (s t : State) : Prop where
  halt : s.ctrl.init = true → t.ctrl.init = true := by exact id
  err : s.stat.err = true → t.stat.err = true := by exact id
  silent : s.ctrl.ie = false → t.intpnd = s.intpnd := by exact fun _ => rfl

namespace ControllerFrame

theorem raiseStatus {s t : State} (h : ControllerFrame s t) (hie : t.ctrl.ie = s.ctrl.ie) :
    ControllerFrame s t.raiseStatus := by
  rw [State.raiseStatus_eq]
  refine ⟨h.halt, h.err, fun hoff => ?_⟩
  simp [hie, hoff, h.silent hoff]

theorem rxEffect (i : Nat) (f : Frame) (s : State) : ControllerFrame s (rxEffect i f s) := by
  rw [rxEffect_eq]
  exact { silent := fun hoff => by simp [hoff] }

theorem xferDoneEffect (s : State) : ControllerFrame s (xferDoneEffect s) := by
  cases him : s.xfer.image with
  | filter =>
    rw [xferDoneEffect_filter s him]
    exact {}
  | txframe =>
    rw [xferDoneEffect_txframe s him]
    exact {}

theorem busoffEffect (lost : List Nat) (e : Bool) (s : State) : ControllerFrame s (busoffEffect lost e s) where
  halt _ := rfl

end ControllerFrame

/-- Every operation of the controller's class. -/
theorem exec_controllerFrame {i : Instr} {s t : State} (hi : opClassOf i.opcode = 3) (h : exec i s = .next t) :
    ControllerFrame s t := by
  unfold exec at h
  cases i with
  | envXferDone => exact State.event_keeps (ControllerFrame s) h {} fun _ => .xferDoneEffect s
  | envRx k f => exact State.slotEvent_keeps (ControllerFrame s) h {} fun _ _ => .rxEffect k f s
  | envTxDone => exact State.slotEvent_keeps (ControllerFrame s) h {} fun _ _ => {}
  | envEwarnOn => exact State.event_keeps (ControllerFrame s) h {} fun _ => .raiseStatus {} rfl
  | envEwarnOff => exact State.event_keeps (ControllerFrame s) h {} fun _ => {}
  | envBusoff lost e =>
    exact State.event_keeps (ControllerFrame s) (execEnvBusoff_event h) {} fun _ =>
      (ControllerFrame.busoffEffect lost e s).raiseStatus rfl
  | envSilentHalt lost e =>
    exact State.event_keeps (ControllerFrame s) (execEnvSilentHalt_event h) {} fun _ => .busoffEffect lost e s
  | envRecovered => exact State.event_keeps (ControllerFrame s) h {} fun _ => {}
  | envErrSet r =>
    refine State.event_keeps (ControllerFrame s) h {} fun _ => ?_
    have hset : ControllerFrame s { s with stat := { s.stat with err := true } } := { err := fun _ => rfl }
    cases r with
    | false => exact hset
    | true => exact hset.raiseStatus rfl
  | _ => exact absurd hi (by simp only [Instr.opcode]; decide)

/-- Settles O47: the frame of the controller's events. -/
theorem noIndicationWithoutEnable : Obligations.NoIndicationWithoutEnable := by
  unfold Obligations.NoIndicationWithoutEnable
  exact fun i s t hi hie ht => (exec_controllerFrame hi ht).silent hie

/-! ## Who clears the error flag -/

/-- IRQ_STATUS reads the status bits and writes none (R99). -/
theorem irqStatusEffect_stat (s : State) : (irqStatusEffect s).stat = s.stat := by
  rcases irqStatusEffect_cases s with ⟨-, -, e⟩ | ⟨-, -, e⟩ | ⟨-, -, -, e⟩ | ⟨-, -, -, e⟩ | ⟨-, -, e⟩ <;> rw [e] <;> rfl

/-- The foreground's frame and the controller's hold the flag, and so does IRQ_STATUS. -/
theorem exec_keeps_err {i : Instr} {s t : State} (h : exec i s = .next t) (hreset : i ≠ .reset)
    (hrx : ∀ k, i ≠ .irqRx k) (herr : s.stat.err = true) : t.stat.err = true := by
  by_cases hfg : opClassOf i.opcode ≤ 1
  · obtain ⟨r, rfl⟩ | hframe := exec_frame hfg h
    · exact herr
    · rw [hframe.stat, herr]
  by_cases henv : opClassOf i.opcode = 3
  · exact (exec_controllerFrame henv h).err herr
  have hclass : ¬ (opClassOf i.opcode ≤ 1 ∨ opClassOf i.opcode = 3) := not_or.2 ⟨hfg, henv⟩
  cases i with
  | irqRx k => exact absurd rfl (hrx k)
  | irqStatus =>
    exact State.event_keeps (·.stat.err = true) h herr fun _ => by rw [irqStatusEffect_stat, herr]
  | reset => exact absurd rfl hreset
  | _ => exact absurd (by simp only [Instr.opcode]; decide) hclass

/-- Settles O45: the event while the controller runs, the foreground's frame, and `exec_keeps_err` for every operation but
the two named. -/
theorem errorFlagIsSetByController : Obligations.ErrorFlagIsSetByController := by
  unfold Obligations.ErrorFlagIsSetByController
  refine ⟨fun r s hinit => exec_envErrSet_of_running r hinit, fun s => congrArg Stat.err (fgStep_frame s).stat,
    fun i s t h herr hclear => ?_⟩
  by_contra hnot
  obtain ⟨hreset, hrx⟩ := not_or.1 hnot
  have hkept : t.stat.err = true := exec_keeps_err h hreset (not_exists.1 hrx) herr
  exact absurd (hkept.symm.trans hclear) Bool.noConfusion

/-! ## Who clears the halt bit -/

/-- A halted controller stays halted. Not given, it does by the step's own definition. -/
structure KeepsHalt (s t : State) : Prop where
  halt : s.ctrl.init = true → t.ctrl.init = true := by exact id

namespace KeepsHalt

theorem of_eq {s t : State} (h : t.ctrl = s.ctrl) : KeepsHalt s t := ⟨fun hinit => by rw [h, hinit]⟩

theorem waitXfer {s : State} {seen : Nat} {again : Nat → Fg} {done : State → State} (hd : KeepsHalt s (done s)) :
    KeepsHalt s (s.waitXfer seen again done) :=
  State.waitXfer_keeps (KeepsHalt s) seen again {} {} {} hd

theorem issueXfer (s : State) (i : Nat) (image : XferImage) (p : Fg) : KeepsHalt s (s.issueXfer i image p) :=
  State.issueXfer_keeps (KeepsHalt s) i image p {} fun _ => {}

/-- A refusal sets the mark alone (R123). -/
theorem issue {s t : State} {pre : Option RefuseReason} {body : State → State} (h : s.issue pre body = .next t)
    (hb : ∀ r : State, KeepsHalt r (body r)) : KeepsHalt s t :=
  State.issue_keeps (KeepsHalt s) h (fun _ => {}) fun _ => ⟨(hb s.begin).halt⟩

theorem microRecv1 (i : Nat) (s : State) : KeepsHalt s (microRecv1 i s) := by
  unfold Machine.microRecv1
  split_ifs <;> exact {}

theorem microRecvRead (field : RecvField) (i : Nat) (t : Shadow) (s : State) :
    KeepsHalt s (microRecvRead field i t s) := by
  cases field <;> exact {}

/-- A halt check that sampled 0 leaves the bit alone (R87 step 2). -/
theorem microHalt2_false (after : AfterHalt) (s : State) : KeepsHalt s (microHalt2 false after s) := by
  cases after <;> exact {}

theorem trySendReturn (f : Frame) (r : ResultCode) (c : Caller) (s : State) : KeepsHalt s (trySendReturn f r c s) := by
  cases c <;> exact {}

theorem microTrySend1 (f : Frame) (c : Caller) (s : State) : KeepsHalt s (microTrySend1 f c s) := by
  unfold Machine.microTrySend1
  split
  · exact trySendReturn ..
  · exact {}

theorem microEnqueue (f : Frame) (s : State) : KeepsHalt s (microEnqueue f s) := by
  unfold Machine.microEnqueue
  split <;> exact {}

theorem microDrain1 (poll : Bool) (s : State) : KeepsHalt s (microDrain1 poll s) := by
  unfold Machine.microDrain1
  cases poll <;> split <;> exact {}

theorem microDrain4 (r : ResultCode) (poll : Bool) (s : State) : KeepsHalt s (microDrain4 r poll s) := by
  cases r <;> cases poll <;> exact {}

theorem microSend3 (f : Frame) (r : ResultCode) (s : State) : KeepsHalt s (microSend3 f r s) := by
  cases r <;> exact {}

theorem scanRx (s : State) (found : Nat → Fg) : KeepsHalt s (s.scanRx found) := by
  unfold State.scanRx
  split <;> exact {}

end KeepsHalt

/-- Every micro-step of the foreground but INIT's step 4 and a halt check that sampled 1. -/
theorem fgStep_keepsHalt {s : State} (hinit : s.fg ≠ .init4) (hhalt : ∀ after, s.fg ≠ .halt2 true after) :
    KeepsHalt s (fgStep s) := by
  unfold fgStep
  cases hfg : s.fg with
  | init4 => exact absurd hfg hinit
  | halt2 b after =>
    cases b with
    | true => exact absurd hfg (hhalt after)
    | false => exact .microHalt2_false after s
  | filter3 => exact .issueXfer ..
  | reserve2 => exact .issueXfer ..
  | trySend2 => exact .issueXfer ..
  | filter4 => exact .waitXfer {}
  | reserve3 => exact .waitXfer {}
  | xferWait => exact .waitXfer {}
  | trySend3 => exact .waitXfer {}
  | trySend1 => exact .microTrySend1 ..
  | trySend4 => exact .trySendReturn ..
  | send3 => exact .microSend3 ..
  | send4 => exact .microEnqueue ..
  | drain4 => exact .microDrain4 ..
  | recv1 => exact .microRecv1 ..
  | recvRead => exact .microRecvRead ..
  | _ => exact {}

theorem execXferWait_keepsHalt {s t : State} {i : Nat} {image : XferImage} (h : execXferWait i image s = .next t) :
    KeepsHalt s t := by
  unfold execXferWait at h
  split at h
  · cases h
  split at h
  · exact .issue h fun _ => .issueXfer ..
  · cases h
    exact {}

theorem irqRxEffect_ctrl (i : Nat) (s : State) : (irqRxEffect i s).ctrl = s.ctrl := by
  rw [irqRxEffect_eq]
  split <;> rfl

/-- Only the bus-off branch of IRQ_STATUS writes the halt bit (R99). -/
theorem irqStatusEffect_keepsHalt {s : State} (hb : s.stat.boff = false) : KeepsHalt s (irqStatusEffect s) := by
  rcases irqStatusEffect_cases s with ⟨h, -, -⟩ | ⟨h, -, -⟩ | ⟨-, -, -, e⟩ | ⟨-, -, -, e⟩ | ⟨-, -, e⟩
  · exact absurd (hb.symm.trans h) Bool.noConfusion
  · exact absurd (hb.symm.trans h) Bool.noConfusion
  all_goals
    rw [e]
    exact {}

/-- Every operation but an IRQ_STATUS that finds a bus-off; RESET sets the halt bit (R36). -/
theorem exec_keepsHalt {i : Instr} {s t : State} (h : exec i s = .next t)
    (hirq : i = .irqStatus → s.stat.boff = false) : KeepsHalt s t := by
  by_cases henv : opClassOf i.opcode = 3
  · exact ⟨(exec_controllerFrame henv h).halt⟩
  unfold exec at h
  cases i with
  | init => exact .issue h fun _ => ⟨fun _ => rfl⟩
  | registerFilter => exact .issue h fun _ => .scanRx ..
  | reserveReceiveSlot => exact .issue h fun _ => .scanRx ..
  | send => exact .issue h fun _ => {}
  | poll => exact .issue h (.microDrain1 _)
  | drainOne => exact .issue h (.microDrain1 _)
  | tryReceive => exact .issue h (.microRecv1 _)
  | rdCounters => exact .issue h fun _ => {}
  | xferWait => exact execXferWait_keepsHalt h
  | precheckHalt => exact .issue h fun _ => {}
  | trySend => exact .issue h (.microTrySend1 _ _)
  | enqueue => exact .issue h (.microEnqueue _)
  | irqRx k => exact State.slotEvent_keeps (KeepsHalt s) h {} fun _ _ => .of_eq (irqRxEffect_ctrl k s)
  | irqStatus => exact State.event_keeps (KeepsHalt s) h {} fun _ => irqStatusEffect_keepsHalt (hirq rfl)
  | reset =>
    cases h
    exact ⟨fun _ => rfl⟩
  | _ => exact absurd (by simp only [Instr.opcode]; decide) henv

/-- A step that clears the halt bit does not keep it. -/
theorem KeepsHalt.not_clears {s t : State} (h : KeepsHalt s t) (hs : s.ctrl.init = true) : t.ctrl.init ≠ false :=
  ne_false_of_eq_true (h.halt hs)

/-- Settles O44: recovery with the halt bit clear and with it set, and who clears the bit (`fgStep_keepsHalt`,
`exec_keepsHalt`). -/
theorem recoveryNeedsHaltClear : Obligations.RecoveryNeedsHaltClear := by
  unfold Obligations.RecoveryNeedsHaltClear
  refine ⟨fun s hboff => ⟨exec_envRecovered_of_enabled hboff, fun hinit t ht => ?_⟩, fun s hinit hclear => ?_,
    fun i s t h hinit hclear => ?_⟩
  · cases (exec_envRecovered_of_not (.inr hinit)).symm.trans ht
    exact ⟨hboff, rfl⟩
  · by_contra hnot
    obtain ⟨hinit4, hhalt⟩ := not_or.1 hnot
    exact (fgStep_keepsHalt hinit4 (not_exists.1 hhalt)).not_clears hinit hclear
  · by_contra hnot
    have hirq : i = .irqStatus → s.stat.boff = false := fun hi => Bool.eq_false_of_not_eq_true fun hb => hnot ⟨hi, hb⟩
    exact (exec_keepsHalt h hirq).not_clears hinit hclear

end Sys2Proof.Machine
end

section
/-! Refusals, marks and interrupt gates (spec/60_exceptions.md R123, R124, R128, R129, R132): the precondition of each host
operation and the reason it fails with, when an IRQ step is enabled, and what a step can do to the recorded marks. -/

namespace Sys2Proof.Machine

/-! ## Refusals of the host operations (R69, R123, R134) -/

/-- The precondition of a host operation besides its context: the reason it is refused with, if any (R69, R123). -/
def State.hostPrecondition (s : State) : Instr → Option RefuseReason
  | .init _ => if s.inited then some .initTwice else none
  | .registerFilter _ value extended => s.needsInit.or (filterRefusal value extended)
  | .send f => s.needsInit.or (frameRefusal f)
  | .poll => s.needsInit
  | .tryReceive => s.needsInit
  | _ => none

/-- Every host operation is issued under its precondition. -/
theorem exec_host_eq_issue {i : Instr} (hi : i.isHost = true) (s : State) :
    ∃ body, exec i s = s.issue (s.hostPrecondition i) body := by
  cases i with
  | init => unfold exec execInit; exact ⟨_, rfl⟩
  | registerFilter => unfold exec execRegisterFilter; exact ⟨_, rfl⟩
  | send => exact ⟨_, rfl⟩
  | poll => exact ⟨_, rfl⟩
  | tryReceive => exact ⟨_, rfl⟩
  | rdCounters => unfold exec execRdCounters; exact ⟨_, rfl⟩
  | _ => exact absurd hi Bool.false_ne_true

section
variable {i : Instr} {s : State}

theorem exec_host_of_interrupt (hi : i.isHost = true) (h : s.issuer = .interrupt) :
    exec i s = .next (s.raiseRefuse .sendFromIrq) := by
  obtain ⟨body, hbody⟩ := exec_host_eq_issue hi s
  exact hbody.trans (s.issue_interrupt _ body h)

theorem exec_host_of_overlap (hi : i.isHost = true) (h : s.issuer = .foreground) (hfg : s.fg ≠ .idle) :
    exec i s = .next (s.raiseRefuse .overlap) := by
  obtain ⟨body, hbody⟩ := exec_host_eq_issue hi s
  exact hbody.trans (s.issue_overlap _ body h hfg)

theorem exec_host_refused (hi : i.isHost = true) (hs : s.free) {r : RefuseReason} (hr : s.hostPrecondition i = some r) :
    exec i s = .next (s.raiseRefuse r) := by
  obtain ⟨body, hbody⟩ := exec_host_eq_issue hi s
  rw [hbody, hr]
  exact s.issue_refused r body hs

/-- Before INIT no operand is looked at. -/
theorem State.needsInit_or_of_not_inited (h : s.inited = false) (operand : Option RefuseReason) :
    s.needsInit.or operand = some .notInitialised := by
  rw [s.needsInit_of_not h, Option.some_or]

/-- After INIT the operand decides. -/
theorem State.needsInit_or_of_inited (h : s.inited = true) (operand : Option RefuseReason) :
    s.needsInit.or operand = operand := by
  rw [s.needsInit_of_inited h, Option.none_or]

/-- Before INIT only INIT and RD_COUNTERS are let through (R123). -/
theorem State.hostPrecondition_of_not_inited (hi : i.isHost = true) (h : s.inited = false) (hinit : ∀ b, i ≠ .init b)
    (hcounters : i ≠ .rdCounters) : s.hostPrecondition i = some .notInitialised := by
  cases i with
  | init b => exact absurd rfl (hinit b)
  | rdCounters => exact absurd rfl hcounters
  | registerFilter => exact State.needsInit_or_of_not_inited h _
  | send => exact State.needsInit_or_of_not_inited h _
  | poll => exact s.needsInit_of_not h
  | tryReceive => exact s.needsInit_of_not h
  | _ => exact absurd hi Bool.false_ne_true

end

theorem fitsIdent_of_wide {v : Word} {extended : Bool} (h : 2 ^ identWidth extended ≤ v.toNat) :
    fitsIdent v extended = false :=
  decide_eq_false (Nat.not_lt.2 h)

theorem frameRefusal_of_long {f : Frame} (h : 8 < f.len.toNat) : frameRefusal f = some .badLength :=
  if_pos (decide_eq_false (Nat.not_le.2 h))

/-- The identifier is looked at once the length is legal (R69). -/
theorem frameRefusal_of_wide {f : Frame} (hl : f.len.toNat ≤ 8) (h : 2 ^ identWidth f.ext ≤ f.id.toNat) :
    frameRefusal f = some .badIdentifier := by
  have hlen : lengthOk f = true := decide_eq_true hl
  simp [frameRefusal, hlen, fitsIdent_of_wide h]

theorem filterRefusal_of_wide {v : Word} {extended : Bool} (h : 2 ^ identWidth extended ≤ v.toNat) :
    filterRefusal v extended = some .badFilterValue := by
  simp [filterRefusal, fitsIdent_of_wide h]

/-- Settles O8: the two contexts refuse any host operation, and each other reason is the one its precondition fails with
(`exec_host_refused`). -/
theorem hostOperationsAreRefusedAsListed : Obligations.HostOperationsAreRefusedAsListed := by
  unfold Obligations.HostOperationsAreRefusedAsListed
  refine ⟨fun i s hi hirq => exec_host_of_interrupt hi hirq, fun i s hi hfore hfg => exec_host_of_overlap hi hfore hfg,
    fun b s hs hi => exec_host_refused rfl hs (if_pos hi), fun i s hi hs hn hinit hcounters => ?before,
    fun f s ⟨hs, hi⟩ hl => exec_host_refused rfl hs ?length, fun f s ⟨hs, hi⟩ hl hw => exec_host_refused rfl hs ?ident,
    fun mask value extended s ⟨hs, hi⟩ hw => exec_host_refused rfl hs ?filter⟩
  case before => exact exec_host_refused hi hs (State.hostPrecondition_of_not_inited hi hn hinit hcounters)
  case length => exact (State.needsInit_or_of_inited hi _).trans (frameRefusal_of_long hl)
  case ident => exact (State.needsInit_or_of_inited hi _).trans (frameRefusal_of_wide hl hw)
  case filter => exact (State.needsInit_or_of_inited hi _).trans (filterRefusal_of_wide hw)

/-! ## Interrupt gates (R128, R129, R132) -/

section
variable {s : State} {i : Nat}

/-- The order of R129: under `status_first_ascending` nothing that comes before slot `i` is pending. -/
theorem State.irqOrderAllows_iff : s.irqOrderAllows i = true ↔
    (s.cfg.irqOrder = .statusFirstAscending → s.intpnd.status = false ∧ ∀ j, j < i → s.slotPending j = false) := by
  unfold State.irqOrderAllows
  cases s.cfg.irqOrder with
  | any => simp
  | statusFirstAscending => simp [leastIn_eq_none]

theorem State.irqRxEnabled_iff : s.irqRxEnabled i = true ↔
    s.ctrl.ie = true ∧ s.irqEn = true ∧ s.slotPending i = true ∧ s.refused = none ∧
      (s.cfg.irqOrder = .statusFirstAscending → s.intpnd.status = false ∧ ∀ j, j < i → s.slotPending j = false) := by
  simp only [State.irqRxEnabled, State.irqGate, Bool.and_eq_true, Option.isNone_iff_eq_none, State.irqOrderAllows_iff,
    and_assoc, and_left_comm (a := s.refused = none)]

theorem exec_irqRx_of_not (hi : i < s.cfg.NRX) (he : s.irqRxEnabled i = false) : exec (.irqRx i) s = .next s :=
  State.slotEvent_of_not hi (ne_true_of_eq_false he)

theorem exec_irqStatus_of_not (he : s.irqStatusEnabled = false) : exec .irqStatus s = .next s :=
  if_neg (ne_true_of_eq_false he)

end

/-- Settles O17: each step's gates (`State.irqRxEnabled_iff`, `State.irqStatusEnabled_iff`), and its label without them. -/
theorem irqGatesAreAsStated : Obligations.IrqGatesAreAsStated := by
  unfold Obligations.IrqGatesAreAsStated
  refine fun s => ⟨fun i => State.irqRxEnabled_iff, ?_, fun i => exec_irqRx_of_not, exec_irqStatus_of_not⟩
  rw [State.irqStatusEnabled_iff, and_left_comm (a := s.refused = none)]

/-- With the gate closed the common part of every IRQ step's condition fails (R128). -/
theorem State.irqGate_of_closed {s : State} (h : s.irqEn = false) : s.irqGate = false := by
  simp [State.irqGate, h]

/-- Settles O15: the block invariant closes the gate in the masked interval (R157), which disables every IRQ step. -/
theorem maskedIntervalExcludesInterrupts : Obligations.MaskedIntervalExcludesInterrupts := by
  unfold Obligations.MaskedIntervalExcludesInterrupts
  intro s hinv hmasked
  obtain ⟨hclosed, -⟩ := hinv.gate
  have hgate : s.irqGate = false := State.irqGate_of_closed (hclosed hmasked)
  exact ⟨exec_irqStatus_of_not (by simp [State.irqStatusEnabled, hgate]),
    fun i hi => exec_irqRx_of_not hi (by simp [State.irqRxEnabled, hgate])⟩

/-! ## The marks (R123, R124) -/

/-- `t` has the refusal mark and the recorded faults of `s`. A field not given is unchanged by the step's own definition. -/
structure KeepsMarks (s t : State) : Prop where
  refused : t.refused = s.refused := by rfl
  faults : t.faults = s.faults := by rfl

namespace KeepsMarks

theorem issueXfer (s : State) (i : Nat) (image : XferImage) (p : Fg) : KeepsMarks s (s.issueXfer i image p) :=
  State.issueXfer_keeps (KeepsMarks s) i image p {} fun _ => {}

theorem microRecv1 (i : Nat) (s : State) : KeepsMarks s (microRecv1 i s) := by
  unfold Machine.microRecv1
  split_ifs <;> exact {}

theorem microRecvRead (field : RecvField) (i : Nat) (t : Shadow) (s : State) :
    KeepsMarks s (microRecvRead field i t s) := by
  cases field <;> exact {}

theorem microHalt2 (b : Bool) (after : AfterHalt) (s : State) : KeepsMarks s (microHalt2 b after s) := by
  cases b <;> cases after <;> exact {}

theorem trySendReturn (f : Frame) (r : ResultCode) (c : Caller) (s : State) : KeepsMarks s (trySendReturn f r c s) := by
  cases c <;> exact {}

theorem microTrySend1 (f : Frame) (c : Caller) (s : State) : KeepsMarks s (microTrySend1 f c s) := by
  unfold Machine.microTrySend1
  split
  · exact trySendReturn ..
  · exact {}

theorem microEnqueue (f : Frame) (s : State) : KeepsMarks s (microEnqueue f s) := by
  unfold Machine.microEnqueue
  split <;> exact {}

theorem microDrain1 (poll : Bool) (s : State) : KeepsMarks s (microDrain1 poll s) := by
  unfold Machine.microDrain1
  cases poll <;> split <;> exact {}

theorem microDrain4 (r : ResultCode) (poll : Bool) (s : State) : KeepsMarks s (microDrain4 r poll s) := by
  cases r <;> cases poll <;> exact {}

theorem microSend3 (f : Frame) (r : ResultCode) (s : State) : KeepsMarks s (microSend3 f r s) := by
  cases r <;> exact {}

theorem scanRx (s : State) (found : Nat → Fg) : KeepsMarks s (s.scanRx found) := by
  unfold State.scanRx
  split <;> exact {}

theorem raiseStatus {s t : State} (h : KeepsMarks s t) : KeepsMarks s t.raiseStatus := by
  rw [State.raiseStatus_eq]
  exact ⟨h.refused, h.faults⟩

theorem rxEffect (i : Nat) (f : Frame) (s : State) : KeepsMarks s (rxEffect i f s) := by
  rw [rxEffect_eq]
  exact {}

theorem xferDoneEffect (s : State) : KeepsMarks s (xferDoneEffect s) := by
  cases him : s.xfer.image with
  | filter =>
    rw [xferDoneEffect_filter s him]
    exact {}
  | txframe =>
    rw [xferDoneEffect_txframe s him]
    exact {}

theorem irqRxEffect (i : Nat) (s : State) : KeepsMarks s (irqRxEffect i s) := by
  rw [irqRxEffect_eq]
  split <;> exact {}

end KeepsMarks

/-- All that a step other than RESET can do to the marks: nothing, or one of the model's three outcomes (R123, R124). -/
inductive MarkEffect (s t : State) : Prop where
  | kept (h : KeepsMarks s t)
  | refuses (r : RefuseReason) (h : t = s.raiseRefuse r)
  | overflows (h : t = s.raiseCounterOverflow)
  | stalls (h : t = s.raiseHandshakeStall)

namespace MarkEffect

section
variable {s t : State} (h : MarkEffect s t)
include h

theorem refused_ne_none (hs : s.refused ≠ none) : t.refused ≠ none := by
  cases h with
  | kept h => rwa [h.refused]
  | refuses r h => rw [h]; exact Option.some_ne_none r
  | overflows h => rwa [h]
  | stalls h => rwa [h]

theorem keeps_counterOverflow (hs : s.faults.counterOverflow = true) : t.faults.counterOverflow = true := by
  cases h with
  | kept h => rw [h.faults, hs]
  | refuses r h => rw [h]; exact hs
  | overflows h => rw [h]; rfl
  | stalls h => rw [h]; exact hs

theorem keeps_handshakeStall (hs : s.faults.handshakeStall = true) : t.faults.handshakeStall = true := by
  cases h with
  | kept h => rw [h.faults, hs]
  | refuses r h => rw [h]; exact hs
  | overflows h => rw [h]; exact hs
  | stalls h => rw [h]; rfl

end

/-- A wait ends, holds, counts or stalls. -/
theorem waitXfer {s : State} {seen : Nat} {again : Nat → Fg} {done : State → State} (hd : KeepsMarks s (done s)) :
    MarkEffect s (s.waitXfer seen again done) :=
  State.waitXfer_keeps (MarkEffect s) seen again (.kept {}) (.kept {}) (.stalls rfl) (.kept hd)

/-- An operation that is issued is refused, or takes its first micro-step. -/
theorem issue {s t : State} {pre : Option RefuseReason} {body : State → State} (h : s.issue pre body = .next t)
    (hb : ∀ r : State, KeepsMarks r (body r)) : MarkEffect s t :=
  State.issue_keeps (MarkEffect s) h (fun r => .refuses r rfl) fun _ => .kept ⟨(hb s.begin).refused, (hb s.begin).faults⟩

theorem event {s t : State} {b : Bool} {effect : State → State} (h : s.event b effect = .next t)
    (he : KeepsMarks s (effect s)) : MarkEffect s t :=
  State.event_keeps (MarkEffect s) h (.kept {}) fun _ => .kept he

theorem slotEvent {s t : State} {i n : Nat} {b : Bool} {effect : State → State} (h : s.slotEvent i n b effect = .next t)
    (he : KeepsMarks s (effect s)) : MarkEffect s t :=
  State.slotEvent_keeps (MarkEffect s) h (.kept {}) fun _ _ => .kept he

theorem irqStatusEffect (s : State) : MarkEffect s (irqStatusEffect s) := by
  rcases irqStatusEffect_cases s with ⟨-, -, e⟩ | ⟨-, -, e⟩ | ⟨-, -, -, e⟩ | ⟨-, -, -, e⟩ | ⟨-, -, e⟩
  · exact .overflows e
  · exact .kept (e ▸ {})
  · exact .overflows e
  · exact .kept (e ▸ {})
  · exact .kept (e ▸ {})

end MarkEffect

theorem execXferWait_markEffect {s t : State} {i : Nat} {image : XferImage} (h : execXferWait i image s = .next t) :
    MarkEffect s t := by
  unfold execXferWait at h
  split at h
  · cases h
  split at h
  · exact .issue h fun _ => .issueXfer ..
  · cases h
    exact .kept {}

/-- The error condition keeps the marks, with an indication raised or without (R114). -/
theorem execEnvErrSet_markEffect {s t : State} {r : Bool} (h : execEnvErrSet r s = .next t) : MarkEffect s t := by
  have hset : KeepsMarks s { s with stat := { s.stat with err := true } } := {}
  refine .event h ?_
  cases r with
  | false => exact hset
  | true => exact hset.raiseStatus

/-- Every micro-step of the foreground: only a wait can stall. -/
theorem fgStep_markEffect (s : State) : MarkEffect s (fgStep s) := by
  unfold fgStep
  cases s.fg with
  | filter4 => exact .waitXfer {}
  | reserve3 => exact .waitXfer {}
  | xferWait => exact .waitXfer {}
  | trySend3 => exact .waitXfer {}
  | filter3 => exact .kept (.issueXfer ..)
  | reserve2 => exact .kept (.issueXfer ..)
  | trySend2 => exact .kept (.issueXfer ..)
  | halt2 => exact .kept (.microHalt2 ..)
  | trySend1 => exact .kept (.microTrySend1 ..)
  | trySend4 => exact .kept (.trySendReturn ..)
  | send3 => exact .kept (.microSend3 ..)
  | send4 => exact .kept (.microEnqueue ..)
  | drain4 => exact .kept (.microDrain4 ..)
  | recv1 => exact .kept (.microRecv1 ..)
  | recvRead => exact .kept (.microRecvRead ..)
  | _ => exact .kept {}

/-- Every operation but RESET: only an issue can refuse, and only IRQ_STATUS can overflow. -/
theorem exec_markEffect {i : Instr} {s t : State} (h : exec i s = .next t) (hi : i ≠ .reset) : MarkEffect s t := by
  unfold exec at h
  cases i with
  | init => exact .issue h fun _ => {}
  | registerFilter => exact .issue h fun _ => .scanRx ..
  | reserveReceiveSlot => exact .issue h fun _ => .scanRx ..
  | send => exact .issue h fun _ => {}
  | poll => exact .issue h (.microDrain1 _)
  | drainOne => exact .issue h (.microDrain1 _)
  | tryReceive => exact .issue h (.microRecv1 _)
  | rdCounters => exact .issue h fun _ => {}
  | xferWait => exact execXferWait_markEffect h
  | precheckHalt => exact .issue h fun _ => {}
  | trySend => exact .issue h (.microTrySend1 _ _)
  | enqueue => exact .issue h (.microEnqueue _)
  | irqRx k => exact .slotEvent h (.irqRxEffect k s)
  | irqStatus => exact State.event_keeps (MarkEffect s) h (.kept {}) fun _ => .irqStatusEffect s
  | envXferDone => exact .event h (.xferDoneEffect s)
  | envRx k f => exact .slotEvent h (.rxEffect k f s)
  | envTxDone => exact .slotEvent h {}
  | envEwarnOn => exact .event h (KeepsMarks.raiseStatus {})
  | envEwarnOff => exact .event h {}
  | envBusoff => exact .event (execEnvBusoff_event h) (KeepsMarks.raiseStatus {})
  | envSilentHalt => exact .event (execEnvSilentHalt_event h) {}
  | envRecovered => exact .event h {}
  | envErrSet => exact execEnvErrSet_markEffect h
  | reset => exact absurd rfl hi

/-- Settles O55: the foreground's frame holds the refusal mark, and no effect on the marks clears one
(`fgStep_markEffect`, `exec_markEffect`). -/
theorem marksArePermanent : Obligations.MarksArePermanent := by
  unfold Obligations.MarksArePermanent
  refine ⟨fun s => ?_, fun i s t h hi => ?_⟩
  · have heffect := fgStep_markEffect s
    exact ⟨(fgStep_frame s).refused, heffect.keeps_counterOverflow, heffect.keeps_handshakeStall⟩
  · have heffect := exec_markEffect h hi
    exact ⟨heffect.refused_ne_none, heffect.keeps_counterOverflow, heffect.keeps_handshakeStall⟩

end Sys2Proof.Machine
end

section
/-! RESET (spec/70_reset_and_hazards.md R139, R142) and the race between an IRQ_RX copy and the field reads of TRY_RECEIVE
(R149). -/

namespace Sys2Proof.Machine

/-! ## RESET (R139) -/

/-- With the interrupt sources disabled no IRQ step is enabled (R128). -/
theorem State.irqPossible_of_disabled {s : State} (h : s.ctrl.ie = false) : s.irqPossible = false := by
  simp [State.irqPossible, State.irqStatusEnabled, State.irqRxEnabled, State.irqGate, h]

/-- The block is quiescent after reset: idle, with no transfer, no mark and the interrupt sources disabled (R140, R142). -/
theorem afterReset_quiescent (p : Params) (n : Nat) (ins : List Input) :
    (State.afterReset p n ins).quiescent = true := by
  have hirq : (State.afterReset p n ins).irqPossible = false := State.irqPossible_of_disabled rfl
  rw [State.quiescent, hirq]
  rfl

/-- Settles O49: the flags are read one slot at a time (`afterReset_moAt` and the lemmas beside it), the storage form and
quiescence are `afterReset_wf` and `afterReset_quiescent`, and every other field is written out in the reset state. -/
theorem resetRestoresControlState : Obligations.ResetRestoresControlState := by
  unfold Obligations.ResetRestoresControlState
  intro s
  refine ⟨State.afterReset s.cfg s.draws s.inputs, rfl, rfl, rfl, fun i => ?_, rfl, rfl, rfl, rfl, rfl, rfl, rfl, rfl,
    rfl, rfl, rfl, rfl, rfl, rfl, rfl, afterReset_wf _ _ _, afterReset_quiescent _ _ _⟩
  obtain ⟨harmed, htxrqst⟩ := afterReset_moAt s.cfg s.draws s.inputs i
  exact ⟨htxrqst, harmed, afterReset_inuseAt _ _ _ i, afterReset_rdyAt _ _ _ i, afterReset_slotPending _ _ _ i⟩

/-! ## The reads of TRY_RECEIVE, cut after any of them (R149) -/

theorem State.goto_of_fg {s : State} {p : Fg} (h : s.fg = p) : s.goto p = s := by
  rw [← h]
  rfl

/-- The first `k` reads overwrite the first `k` of the local values (R83 steps 2 to 8). -/
theorem runFg_firstReads (s : State) (i : Nat) (t : Shadow) {k : Nat} (hk : k ≤ 7) :
    runFg k (s.goto (.recvRead .id i t)) = s.goto (readPosition i (tornShadow k (s.shAt i) t) k) := by
  interval_cases k <;> simp [runFg_succ, fgStep, readPosition, microRecvRead, tornShadow, State.goto_goto]

/-- The reads that are left after `k` overwrite all but the first `k` of the local values (R83 steps 2 to 8). -/
theorem runFg_remainingReads (s : State) (i : Nat) (t : Shadow) {k : Nat} (hk : k ≤ 7) :
    runFg (7 - k) (s.goto (readPosition i t k)) = s.goto (.recv9 i (tornShadow k t (s.shAt i))) := by
  interval_cases k <;> simp [runFg_succ, fgStep, readPosition, microRecvRead, tornShadow, State.goto_goto]

/-- Both tears choose each field by the same test, so the values of `mid` leave no trace. -/
theorem tornShadow_tornShadow (k : Nat) (old mid new : Shadow) :
    tornShadow k (tornShadow k old mid) new = tornShadow k old new := by
  grind [tornShadow]

/-- After the reads that are left, the last two micro-steps clear the flag and return the frame (R83 steps 9 and 10). -/
theorem runFg_fromReadPosition (s : State) (i : Nat) (t : Shadow) {k : Nat} (hk : k ≤ 7) :
    runFg (9 - k) (s.goto (readPosition i t k)) = microRecv10 (tornShadow k t (s.shAt i)) (s.setRdy i false) := by
  have hsteps : 9 - k = 7 - k + 2 := by omega
  rw [hsteps, runFg_add, runFg_remainingReads s i t hk]
  rfl

/-- IRQ_RX does not look at the foreground's position, and leaves it alone (R81). -/
theorem irqRxEffect_goto (i : Nat) (s : State) (p : Fg) : irqRxEffect i (s.goto p) = (irqRxEffect i s).goto p := by
  cases herr : s.stat.err <;> simp only [irqRxEffect, State.goto_stat, herr] <;> rfl

/-- A copy after `k` of the reads splits the entry that is returned at `k`, and the ninth step clears the flag that the copy
has set (R149). -/
theorem runFg_afterCopy {s : State} {i k : Nat} (hwf : Memory.wf s) (hk : k ≤ 7) (hi : i < s.cfg.NRX)
    (herr : s.stat.err = false) (t : Shadow) :
    runFg (9 - k) (irqRxEffect i (s.goto (readPosition i t k))) =
      microRecv10 (tornShadow k t (shadowOf (s.moAt i))) { s with
        sh := s.sh.set i (shadowOf (s.moAt i))
        rdy := s.rdy.set i false
        intpnd := { s.intpnd with slot := s.intpnd.slot.set i false } } := by
  obtain ⟨hsh, -⟩ := irqRxEffect_copies hwf hi herr
  rw [irqRxEffect_goto, runFg_fromReadPosition _ i t hk, hsh, irqRxEffect_eq, if_neg (ne_true_of_eq_false herr)]
  simp only [State.setRdy, List.set_set]

/-- The scan finds slot `i` flagged, and `k` field reads follow (R83 steps 1 to 8). -/
theorem runFg_scanThenReads {s : State} {i k : Nat} (hk : k ≤ 7) (hi : i < s.cfg.NRX) (hrdy : s.rdyAt i = true)
    (hclear : ∀ j, j < i → s.rdyAt j = false) :
    runFg (i + k) (microRecv1 0 s) = s.goto (readPosition i (tornShadow k (s.shAt i) Shadow.none) k) := by
  rw [runFg_add, runFg_microRecv1 i hi hclear, microRecv1_of_flagged hi hrdy, runFg_firstReads s i _ hk]

/-- Settles O21: the reads before the copy (`runFg_scanThenReads`) and those after it (`runFg_afterCopy`) split the entry at
`k`, whatever the local values were before the first of them (`tornShadow_tornShadow`). -/
theorem copyDuringReadTearsFrame : Obligations.CopyDuringReadTearsFrame := by
  unfold Obligations.CopyDuringReadTearsFrame
  refine ⟨fun s u i k t hwf hk hfg hi hirq herr hu => ?_, fun s i k hwf hk hready hi hrdy hclear hirq herr => ?_⟩
  · cases (exec_irqRx_of_enabled hi hirq).symm.trans hu
    have hrun := runFg_afterCopy hwf hk hi herr t
    rw [State.goto_of_fg hfg] at hrun
    obtain ⟨-, -, hlen, -⟩ := hwf
    rw [hrun]
    exact ⟨rfl, rfl, (s.rdyAt_setRdy i i false).trans (if_pos ⟨rfl, hlen ▸ hi⟩)⟩
  · refine ⟨_, irqRxEffect i (s.begin.goto (readPosition i (tornShadow k (s.shAt i) Shadow.none) k)),
      exec_tryReceive hready, ?_, ?_⟩
    · rw [runFg_scanThenReads (s := s.begin) hk hi hrdy hclear]
      exact exec_irqRx_of_enabled hi hirq
    · rw [runFg_afterCopy (s := s.begin) hwf hk hi herr, tornShadow_tornShadow]
      rfl

end Sys2Proof.Machine
end
